-- ==== Sys2Proof/Word.lean ====
section
/-! DEFINITION. The widths and the two-valued line level that every other file uses. -/

namespace Sys2Proof

/-- One byte: a command byte (R170) or a character code of the Pronto text (R76). -/
abbrev Byte := BitVec 8

/-- A 16-bit register or tick count (R50). -/
abbrev Half := BitVec 16

/-- A 32-bit register or a TXBUF cell (R50). -/
abbrev Word := BitVec 32

/-- A logical line level (R17, R52): `mark` while carrier is received or sent, `space` otherwise. -/
inductive Level where
  | space
  | mark
deriving DecidableEq, Repr

/-- `MARK = 1` and `SPACE = 0` as values of a level (R17). -/
def Level.code : Level → BitVec 1
  | .space => 0
  | .mark => 1

end Sys2Proof
end

