-- ==== Sys2Proof/Syntax.lean ====
section
/-! DEFINITION. The commands of the block (one constructor per row of the opcode table), the protocols
they select, the four cell memories, and the events of the outside world that a step consumes. -/

namespace Sys2Proof

/-- The protocols that have a tag (R180), in the order of their tags 1 to 15. -/
inductive Protocol where
  | rc5
  | rc6
  | nec
  | sony
  | panasonic
  | jvc
  | samsung
  | whynter
  | aiwa
  | lg
  | sanyo
  | mitsubishi
  | denon
  | dish
  | sharp
deriving DecidableEq, Repr

/-- The HOST's commands (R170 to R173): class 0 CTRL, class 1 AVAILABLE, class 2 SEND. A command has no
operand field: its operands are the ARG registers (R175). `TICK` is not a command (R179). -/
inductive Instr where
  | nop
  | rxEnable
  | rxDisable
  | rxResume
  | rxIsIdle
  | rxDecode
  | rxDecodeCopy
  | availableHash
  | availableRc5
  | availableRc6
  | availableNec
  | availableSony
  | availablePanasonic
  | availableJvc
  | availableSamsung
  | availableWhynter
  | availableAiwa
  | availableLg
  | availableSanyo
  | availableMitsubishi
  | availableDenon
  | sendRaw
  | sendRc5
  | sendRc6
  | sendNec
  | sendSony
  | sendPanasonic
  | sendJvc
  | sendSamsung
  | sendWhynter
  | sendAiwa
  | sendLg
  | sendDenon
  | sendDish
  | sendSharp
  | sendPronto
deriving DecidableEq, Repr

/-- The four cell memories (R121). -/
inductive Space where
  | raw
  | snapraw
  | txbuf
  | ptxt
deriving DecidableEq, Repr

/-- One step of the outside world (R6, R51, R124): the sampler's `tick` event with the level of `ir_in`
at it, one single register or cell access of the HOST, or the reset input. Numbers and values are those
the HOST puts on its port; the access reduces them to the width of what it reaches. -/
inductive Input where
  | tick (level : Level)
  | regWrite (number value : Nat)
  | regRead (number : Nat)
  | memWrite (space : Space) (index value : Nat)
  | memRead (space : Space) (index : Nat)
  | rst
deriving DecidableEq, Repr

end Sys2Proof
end

