-- ==== Sys2Proof/Decode.lean ====
section
/-! DEFINITION. The command byte: its two fields, the decoder (total, rejecting by name) and the encoder.
A command is one byte with `class = c[7:5]` and `sel = c[4:0]` (R170); there is no operand in it. -/

namespace Sys2Proof

/-- Why a command byte stands for no command (R178). -/
inductive Illegal where
  /-- No byte was given. -/
  | noByte
  /-- Classes 3 to 7 (R170). -/
  | reservedClass
  /-- Class 0 with `sel` 7 to 31 (R171). -/
  | reservedCtrl
  /-- Class 1 with `sel` 14 or 15: DISH and SHARP have no decoder (R172). -/
  | noDecoder
  /-- Class 1 with `sel` 16 to 31 (R172). -/
  | reservedAvailable
  /-- Class 2 with `sel` 11 or 12: SANYO and MITSUBISHI have no encoder (R173, R422). -/
  | noEncoder
  /-- Class 2 with `sel` 17 to 31 (R173). -/
  | reservedSend
deriving DecidableEq, Repr

/-- The field `class = c[7:5]` (R170). -/
def commandClass (c : Byte) : Nat := (c.extractLsb' 5 3).toNat

/-- The field `sel = c[4:0]` (R170). -/
def commandSel (c : Byte) : Nat := (c.extractLsb' 0 5).toNat

/-- Class 0, CTRL (R171). -/
def decodeCtrl : Nat → Except Illegal Instr
  | 0 => .ok .nop
  | 1 => .ok .rxEnable
  | 2 => .ok .rxDisable
  | 3 => .ok .rxResume
  | 4 => .ok .rxIsIdle
  | 5 => .ok .rxDecode
  | 6 => .ok .rxDecodeCopy
  | _ => .error .reservedCtrl

/-- Class 1, AVAILABLE (R172): `sel` is the tag of the decoder, 0 the HashDecoder. -/
def decodeAvailable : Nat → Except Illegal Instr
  | 0 => .ok .availableHash
  | 1 => .ok .availableRc5
  | 2 => .ok .availableRc6
  | 3 => .ok .availableNec
  | 4 => .ok .availableSony
  | 5 => .ok .availablePanasonic
  | 6 => .ok .availableJvc
  | 7 => .ok .availableSamsung
  | 8 => .ok .availableWhynter
  | 9 => .ok .availableAiwa
  | 10 => .ok .availableLg
  | 11 => .ok .availableSanyo
  | 12 => .ok .availableMitsubishi
  | 13 => .ok .availableDenon
  | 14 => .error .noDecoder
  | 15 => .error .noDecoder
  | _ => .error .reservedAvailable

/-- Class 2, SEND (R173): `sel` is the tag of the encoder, 0 the raw send, 16 the Pronto player. -/
def decodeSend : Nat → Except Illegal Instr
  | 0 => .ok .sendRaw
  | 1 => .ok .sendRc5
  | 2 => .ok .sendRc6
  | 3 => .ok .sendNec
  | 4 => .ok .sendSony
  | 5 => .ok .sendPanasonic
  | 6 => .ok .sendJvc
  | 7 => .ok .sendSamsung
  | 8 => .ok .sendWhynter
  | 9 => .ok .sendAiwa
  | 10 => .ok .sendLg
  | 11 => .error .noEncoder
  | 12 => .error .noEncoder
  | 13 => .ok .sendDenon
  | 14 => .ok .sendDish
  | 15 => .ok .sendSharp
  | 16 => .ok .sendPronto
  | _ => .error .reservedSend

/-- The command a byte stands for (R170 to R173, R178). -/
def decodeByte (c : Byte) : Except Illegal Instr :=
  match commandClass c with
  | 0 => decodeCtrl (commandSel c)
  | 1 => decodeAvailable (commandSel c)
  | 2 => decodeSend (commandSel c)
  | _ => .error .reservedClass

/-- The decoder: one byte is a whole command (R170); the bytes after it are handed back. -/
def decode : List Byte → Except Illegal (Instr × List Byte)
  | [] => .error .noByte
  | c :: rest =>
    match decodeByte c with
    | .ok i => .ok (i, rest)
    | .error e => .error e

/-- The `class` and `sel` of each command, from the tables of R171, R172 and R173. -/
def encodeFields : Instr → BitVec 3 × BitVec 5
  | .nop => (0, 0)
  | .rxEnable => (0, 1)
  | .rxDisable => (0, 2)
  | .rxResume => (0, 3)
  | .rxIsIdle => (0, 4)
  | .rxDecode => (0, 5)
  | .rxDecodeCopy => (0, 6)
  | .availableHash => (1, 0)
  | .availableRc5 => (1, 1)
  | .availableRc6 => (1, 2)
  | .availableNec => (1, 3)
  | .availableSony => (1, 4)
  | .availablePanasonic => (1, 5)
  | .availableJvc => (1, 6)
  | .availableSamsung => (1, 7)
  | .availableWhynter => (1, 8)
  | .availableAiwa => (1, 9)
  | .availableLg => (1, 10)
  | .availableSanyo => (1, 11)
  | .availableMitsubishi => (1, 12)
  | .availableDenon => (1, 13)
  | .sendRaw => (2, 0)
  | .sendRc5 => (2, 1)
  | .sendRc6 => (2, 2)
  | .sendNec => (2, 3)
  | .sendSony => (2, 4)
  | .sendPanasonic => (2, 5)
  | .sendJvc => (2, 6)
  | .sendSamsung => (2, 7)
  | .sendWhynter => (2, 8)
  | .sendAiwa => (2, 9)
  | .sendLg => (2, 10)
  | .sendDenon => (2, 13)
  | .sendDish => (2, 14)
  | .sendSharp => (2, 15)
  | .sendPronto => (2, 16)

/-- The command byte: `class` in the upper three bits, `sel` in the lower five (R170). -/
def encodeByte (i : Instr) : Byte := (encodeFields i).1 ++ (encodeFields i).2

/-- The encoder: the one byte of a command. -/
def encode (i : Instr) : List Byte := [encodeByte i]

/-- The instruction the decoder reads from the `nbits` bits of `w`: the byte that holds them. -/
def decodeTableWord (nbits w : Nat) : Option Instr :=
  match decode [BitVec.ofNat 8 (w % 2 ^ nbits)] with
  | .ok (i, _) => some i
  | .error _ => none

end Sys2Proof
end

