-- ==== Sys2Proof/Config.lean ====
section
/-! DEFINITION. The parameters of the block (R8, R10 to R12, R188) as plain data, and the values the spec
leaves open as constants without a body. The default values stand in Machine/Defaults.lean. -/

namespace Sys2Proof

/-- How a cell of a pulse frame tells a 1 from a 0 (R188): by its space or by its mark. -/
inductive FrameKind where
  | distance
  | width
deriving DecidableEq, Repr

/-- The repeat convention of a descriptor (R188). -/
inductive RepeatRule where
  | none
  | codeword
  | headerless
deriving DecidableEq, Repr

/-- A pulse-distance or pulse-width ProtocolDescriptor (R188). Durations are in microseconds and 0 means
absent; a field of the other kind is 0. `tol` and `msbFirst` are held as R188 lists them; no rule reads
them (R244, R186), and `Config.wf` asks for the values R188 states (DEDUCED, log entry 13). -/
structure FrameDescriptor where
  kind : FrameKind
  khz : Nat
  preMark : Nat := 0
  preSpace : Nat := 0
  hdrMark : Nat := 0
  hdrSpace : Nat := 0
  bitMark : Nat := 0
  oneSpace : Nat := 0
  zeroSpace : Nat := 0
  oneMark : Nat := 0
  zeroMark : Nat := 0
  bitSpace : Nat := 0
  nmin : Nat
  nmax : Nat
  stopMark : Nat := 0
  tol : Nat := 25
  msbFirst : Bool := true
  addrBits : Nat := 0
  rpt : RepeatRule := .none
  rptSpace : Nat := 0
deriving DecidableEq, Repr

/-- A biphase ProtocolDescriptor (R188, R190): `t1` is half a bit cell, `nmin` and `nmax` bound the data
bits a decoder accepts, `minRawlen` is the least capture length it looks at (R383, R385) (DESIGN CHOICE, log
entry 11). `tol`, `msbFirst`, `addrBits` and `rpt` are held as R188 lists them; no rule reads them (R244, C6), and
`Config.wf` asks for the values R188 states (DEDUCED, log entry 13). -/
structure BiphaseDescriptor where
  khz : Nat
  hdrMark : Nat := 0
  hdrSpace : Nat := 0
  t1 : Nat
  nmin : Nat
  nmax : Nat
  minRawlen : Nat
  tol : Nat := 25
  msbFirst : Bool := true
  addrBits : Nat := 0
  rpt : RepeatRule := .none
deriving DecidableEq, Repr

/-- The descriptor table (R190): one row per protocol, of the shape its encoding kind has (R180). -/
structure DescriptorTable where
  rc5 : BiphaseDescriptor
  rc6 : BiphaseDescriptor
  nec : FrameDescriptor
  sony : FrameDescriptor
  panasonic : FrameDescriptor
  jvc : FrameDescriptor
  samsung : FrameDescriptor
  whynter : FrameDescriptor
  aiwa : FrameDescriptor
  lg : FrameDescriptor
  sanyo : FrameDescriptor
  mitsubishi : FrameDescriptor
  denon : FrameDescriptor
  dish : FrameDescriptor
  sharp : FrameDescriptor
deriving DecidableEq, Repr

/-- The parameters of R8, R10, R11 and R12. They never change while the block runs (R74) (DESIGN CHOICE, log
entries 1 and 17). -/
structure Config where
  usecPerTick : Nat
  rawCapacity : Nat
  sampleMax : Nat
  idleGapTicks : Nat
  tolPct : Nat
  guardUs : Nat
  markCompUs : Int
  jvcRptWindowTicks : Nat
  hashTolNum : Nat
  hashTolDen : Nat
  hashBasis : Word
  hashPrime : Word
  repeatValue : Word
  txCapacity : Nat
  ptxtCapacity : Nat
  prontoUnitPs : Nat
  aiwaPre : Nat
  table : DescriptorTable
  decodeOrder : List Protocol
  enableDec : List Protocol
  enableEnc : List Protocol
deriving DecidableEq, Repr

/-- The carrier duty cycle, in percent: the one parameter the spec leaves open (R8, R445, U4). No rule
reads it and nothing in the model does (log entry 14). -/
opaque Config.carrierDutyPct : Nat

/-- The value of the `n`-th read that the spec leaves unspecified and may differ at every read (R141, U1,
U2): free, since nothing in Lean says what it is (DESIGN CHOICE, log entry 5). -/
opaque Config.unspecifiedRead (n : Nat) : Half

/-- What a cell that nothing has written since the `epoch`-th reset holds (R100, U3): an unknown value
that stays the same until the cell is written (DESIGN CHOICE, log entry 6). -/
opaque Config.unwrittenCell (epoch : Nat) (space : Space) (index : Nat) : Word

end Sys2Proof
end

