-- ==== Sys2Proof/Machine/Matcher.lean ====
section
/-! DEFINITION. The ToleranceMatcher (R240 to R244) and the names of the failure causes (R501). -/

namespace Sys2Proof.Machine

/-- The failure labels of R501. They are names in the rules: no register holds one, and the HOST sees
only OK and CMD_ERR (R502). Overflow is a flag and no failure (R504). -/
inductive Cause where
  | noMatchLength
  | noMatchHeader
  | noMatchBit
  | noMatchStop
  | noMatchFixed
  | notReady
  | malformedProntoInput
  | unsupportedRequest
  | illegalCommand
deriving DecidableEq, Repr

/-- MATCH_US in exact integers, both bounds inclusive (R241). -/
def matchUs (c : Config) (e : Int) (d tol : Nat) : Bool :=
  decide ((d : Int) * (100 - tol) - 100 * c.guardUs ≤ 100 * e)
    && decide (100 * e ≤ (d : Int) * (100 + tol) + 100 * c.guardUs)

/-- MATCH_MARK: the compensation is added (R242). -/
def matchMark (c : Config) (m d : Nat) : Bool :=
  matchUs c ((m : Int) * c.usecPerTick + c.markCompUs) d c.tolPct

/-- MATCH_SPACE: the compensation is subtracted (R243). -/
def matchSpace (c : Config) (m d : Nat) : Bool :=
  matchUs c ((m : Int) * c.usecPerTick - c.markCompUs) d c.tolPct

end Sys2Proof.Machine
end

