-- ==== Sys2Proof/Machine/Defaults.lean ====
section
/-! DEFINITION. The default value of every parameter: the table of R8, the descriptor table of R190, the
decode order of R11 and the enable tables of R12 (mostly general knowledge, not the source's: PRESUMED, log
entry 19). -/

namespace Sys2Proof.Machine

/-- The descriptor table of R190. DISH and SHARP have no decoder; their cell bounds are not read (and the
carriers of SANYO and MITSUBISHI neither: DESIGN CHOICE, log entry 12). R190 gives `addr_bits` of AIWA and SHARP as
`special`, no number; their rows hold 0, which nothing reads, since R193 and R194 give their layouts (DESIGN
CHOICE, log entry 12). SONY and SANYO have `addr_bits` 0 by R192. RC5 and RC6 hold `addr_bits` 0 and `repeat` NONE
(DEDUCED, log entry 13). -/
def defaultTable : DescriptorTable where
  rc5 := { khz := 36, t1 := 889, nmin := 1, nmax := 32, minRawlen := 13 }
  rc6 := { khz := 36, hdrMark := 2666, hdrSpace := 889, t1 := 444, nmin := 1, nmax := 32, minRawlen := 4 }
  nec := { kind := .distance, khz := 38, hdrMark := 9000, hdrSpace := 4500, bitMark := 560,
           oneSpace := 1690, zeroSpace := 560, nmin := 32, nmax := 32, stopMark := 560,
           rpt := .codeword, rptSpace := 2250 }
  sony := { kind := .width, khz := 40, hdrMark := 2400, hdrSpace := 600, oneMark := 1200,
            zeroMark := 600, bitSpace := 600, nmin := 12, nmax := 32 }
  panasonic := { kind := .distance, khz := 35, hdrMark := 3502, hdrSpace := 1750, bitMark := 502,
                 oneSpace := 1244, zeroSpace := 400, nmin := 48, nmax := 48, stopMark := 502,
                 addrBits := 16 }
  jvc := { kind := .distance, khz := 38, hdrMark := 8000, hdrSpace := 4000, bitMark := 600,
           oneSpace := 1600, zeroSpace := 550, nmin := 16, nmax := 16, stopMark := 600,
           rpt := .headerless }
  samsung := { kind := .distance, khz := 38, hdrMark := 5000, hdrSpace := 5000, bitMark := 560,
               oneSpace := 1600, zeroSpace := 560, nmin := 32, nmax := 32, stopMark := 560 }
  whynter := { kind := .distance, khz := 38, preMark := 750, preSpace := 750, hdrMark := 2850,
               hdrSpace := 2850, bitMark := 750, oneSpace := 2150, zeroSpace := 750, nmin := 32,
               nmax := 32, stopMark := 750 }
  aiwa := { kind := .distance, khz := 38, hdrMark := 8800, hdrSpace := 4500, bitMark := 500,
            oneSpace := 600, zeroSpace := 1700, nmin := 42, nmax := 42, stopMark := 500 }
  lg := { kind := .distance, khz := 38, hdrMark := 8000, hdrSpace := 4000, bitMark := 600,
          oneSpace := 1600, zeroSpace := 550, nmin := 28, nmax := 28, stopMark := 600 }
  sanyo := { kind := .width, khz := 0, hdrMark := 3500, hdrSpace := 950, oneMark := 2400,
             zeroMark := 700, bitSpace := 950, nmin := 12, nmax := 12 }
  mitsubishi := { kind := .distance, khz := 0, bitMark := 350, oneSpace := 1950, zeroSpace := 750,
                  nmin := 16, nmax := 16, stopMark := 350 }
  denon := { kind := .distance, khz := 38, hdrMark := 300, hdrSpace := 750, bitMark := 300,
             oneSpace := 1800, zeroSpace := 750, nmin := 14, nmax := 14, stopMark := 300,
             addrBits := 4 }
  dish := { kind := .distance, khz := 56, hdrMark := 400, hdrSpace := 6100, bitMark := 400,
            oneSpace := 1700, zeroSpace := 2800, nmin := 1, nmax := 32, stopMark := 400 }
  sharp := { kind := .distance, khz := 38, bitMark := 245, oneSpace := 1805, zeroSpace := 795,
             nmin := 15, nmax := 15, stopMark := 245 }

/-- The defaults of R8, R11 and R12. -/
def defaultConfig : Config where
  usecPerTick := 50
  rawCapacity := 101
  sampleMax := 65535
  idleGapTicks := 100
  tolPct := 25
  guardUs := 50
  markCompUs := -100
  jvcRptWindowTicks := 1200
  hashTolNum := 4
  hashTolDen := 5
  hashBasis := 2166136261
  hashPrime := 16777619
  repeatValue := 0xFFFFFFFF
  txCapacity := 256
  ptxtCapacity := 2048
  prontoUnitPs := 241246
  aiwaPre := 0x0089FBB
  table := defaultTable
  decodeOrder := [.rc5, .rc6, .nec, .sony, .panasonic, .jvc, .samsung, .whynter, .aiwa, .lg, .sanyo,
    .mitsubishi, .denon]
  enableDec := [.rc5, .rc6, .nec, .sony, .panasonic, .jvc, .samsung, .whynter, .aiwa, .lg, .sanyo,
    .mitsubishi, .denon]
  enableEnc := [.rc5, .rc6, .nec, .sony, .panasonic, .jvc, .samsung, .whynter, .aiwa, .lg, .denon,
    .dish, .sharp]

end Sys2Proof.Machine
end

