-- ==== Sys2Proof/Machine/Tags.lean ====
section
/-! DEFINITION. Protocol tags, which codecs exist, and which of them a configuration enables. -/

namespace Sys2Proof

/-- The tag of a result that holds nothing (R54, R180). -/
def tagUnused : Byte := 0

/-- The tag of the HashDecoder's result, -1 in two's complement (R54, R180). -/
def tagUnknown : Byte := 0xFF

/-- The tag numbers of R180. -/
def Protocol.tag : Protocol → Byte
  | .rc5 => 1
  | .rc6 => 2
  | .nec => 3
  | .sony => 4
  | .panasonic => 5
  | .jvc => 6
  | .samsung => 7
  | .whynter => 8
  | .aiwa => 9
  | .lg => 10
  | .sanyo => 11
  | .mitsubishi => 12
  | .denon => 13
  | .dish => 14
  | .sharp => 15

/-- Which protocols have a decoder (R180): all but the send-only DISH and SHARP. -/
def Protocol.hasDecoder : Protocol → Bool
  | .rc5 => true
  | .rc6 => true
  | .nec => true
  | .sony => true
  | .panasonic => true
  | .jvc => true
  | .samsung => true
  | .whynter => true
  | .aiwa => true
  | .lg => true
  | .sanyo => true
  | .mitsubishi => true
  | .denon => true
  | .dish => false
  | .sharp => false

/-- Which protocols have an encoder (R180): all but the decode-only SANYO and MITSUBISHI. -/
def Protocol.hasEncoder : Protocol → Bool
  | .rc5 => true
  | .rc6 => true
  | .nec => true
  | .sony => true
  | .panasonic => true
  | .jvc => true
  | .samsung => true
  | .whynter => true
  | .aiwa => true
  | .lg => true
  | .sanyo => false
  | .mitsubishi => false
  | .denon => true
  | .dish => true
  | .sharp => true

/-- `ENABLE_DEC[p]` (R12): false and not settable where no decoder exists. -/
def Config.decEnabled (c : Config) (p : Protocol) : Bool :=
  p.hasDecoder && c.enableDec.contains p

/-- `ENABLE_ENC[p]` (R12): false and not settable where no encoder exists. -/
def Config.encEnabled (c : Config) (p : Protocol) : Bool :=
  p.hasEncoder && c.enableEnc.contains p

end Sys2Proof
end

