-- ==== Sys2Proof/Machine/State.lean ====
section
/-! DEFINITION. The state of the block (R50) as plain data, what a step can answer besides a next state,
and the state after reset (R100). -/

namespace Sys2Proof.Machine

/-- The block raises no exception, takes no trap and has no faulted or stuck state (R500, R571): there is
no fault at all, so nobody raises one and no claim about a fault can be false (safe) (DEDUCED, log entry 15).
-/
inductive Fault where
deriving DecidableEq, Repr

/-- What the model turns away. -/
inductive Refusal where
  /-- Raised by an arm of `exec` whose command has no meaning yet; safe, since nothing is claimed of it.
  No arm raises it now. -/
  | notModelled (mnemonic : String)
deriving DecidableEq, Repr

/-- A cell memory of cells `w` bits wide: pairs of index and contents, indices strictly rising. A cell
that is not listed holds no value (R100: a cell nothing has written since reset) (whole cells, not bytes,
R125: DESIGN CHOICE, log entry 7). -/
abbrev Memory (w : Nat) := List (Nat × BitVec w)

/-- The states of the sampler (R55). -/
inductive RcvState where
  | idle
  | active
  | ready
deriving DecidableEq, Repr

/-- A DecodeResult less its raw sequence (R60): the raw sequence of `res` is RAW itself (R61), that of
`snap` is SNAPRAW (R62). -/
structure DecodeResult where
  tag : Byte
  value : Word
  address : Half
  bits : Byte
  rawlen : Half
  overflow : Bool
deriving DecidableEq, Repr

/-- One segment of the transmit output (R75): carrier of `khz` kilohertz, or an idle line, for `us`
microseconds. -/
inductive Segment where
  | mark (us khz : Nat)
  | space (us : Nat)
deriving DecidableEq, Repr

/-- Everything R50 lists, then what the model adds: the parameters (R74: they never change), the events
still to come, the values the HOST has read, and the two counters the free values are drawn with. -/
structure State where
  /-- The parameters; a part of State only because a step has no other argument (R74, R552) (DESIGN CHOICE,
  log entry 1). -/
  cfg : Config
  rxEnable : Bool
  rcvstate : RcvState
  curLevel : Level
  counter : Half
  raw : Memory 16
  rawlen : Half
  overflow : Bool
  res : DecodeResult
  snap : DecodeResult
  snapraw : Memory 16
  lastTag : Byte
  argValue : Word
  argAddr : Half
  argNbits : Byte
  argFlags : BitVec 2
  argKhz : Half
  argLen : Half
  statusOk : Bool
  statusCmderr : Bool
  txbuf : Memory 32
  ptxt : Memory 8
  txout : List Segment
  /-- The model's own: the events of the outside world in the order in which they will occur (R140: any
  interleaving of ticks and HOST accesses is such a list) (DESIGN CHOICE, log entry 2). -/
  inputs : List Input
  /-- The model's own: the values HOST reads have returned, the oldest first (R571) (DESIGN CHOICE, log entry
  4). -/
  hostReads : List Word
  /-- The model's own: how many unspecified reads there have been (U1) (DESIGN CHOICE, log entry 5). -/
  draws : Nat
  /-- The model's own: how many times `rst` has been given (U3) (DESIGN CHOICE, log entry 6). -/
  epoch : Nat
deriving DecidableEq, Repr

/-- A result that holds nothing (R100). -/
def DecodeResult.unused : DecodeResult :=
  { tag := tagUnused, value := 0, address := 0, bits := 0, rawlen := 0, overflow := false }

/-- The machine right after reset (R100, R550), with the default parameters and no event to come. -/
def State.reset : State where
  cfg := defaultConfig
  rxEnable := false
  rcvstate := .idle
  curLevel := .space
  counter := 0
  raw := []
  rawlen := 0
  overflow := false
  res := DecodeResult.unused
  snap := DecodeResult.unused
  snapraw := []
  lastTag := tagUnused
  argValue := 0
  argAddr := 0
  argNbits := 0
  argFlags := 0
  argKhz := 0
  argLen := 0
  statusOk := false
  statusCmderr := false
  txbuf := []
  ptxt := []
  txout := []
  inputs := []
  hostReads := []
  draws := 0
  epoch := 0

end Sys2Proof.Machine
end

