-- ==== Sys2Proof/Machine/Ops.lean ====
section
/-! DEFINITION. The named operations over memories and registers that commands and steps share: the cells
of the four memories, the operand-free status updates, and the order of events. The block has no exception
entry and no return from one (R500, R520 to R522); the shared operation nearest to it is the illegal
command (R178). -/

namespace Sys2Proof.Machine

/-- The contents of cell `i`, if anything was written to it (R100). -/
def Memory.find {w : Nat} : Memory w → Nat → Option (BitVec w)
  | [], _ => none
  | (a, x) :: m, i => if i = a then some x else Memory.find m i

/-- Writes cell `i` and keeps the indices strictly rising. -/
def Memory.write {w : Nat} : Memory w → Nat → BitVec w → Memory w
  | [], i, v => [(i, v)]
  | (a, x) :: m, i, v =>
    if i < a then (i, v) :: (a, x) :: m
    else if i = a then (i, v) :: m
    else (a, x) :: Memory.write m i v

/-- The canonical form of a memory: its indices rise strictly. What an unlisted cell reads as, no value,
is never the value of an entry, so equal memories are equal lists. -/
def Memory.wf {w : Nat} : Memory w → Bool
  | [] => true
  | [_] => true
  | (a, _) :: (b, y) :: m => decide (a < b) && Memory.wf ((b, y) :: m)

/-- Every listed index is below `n`, the number of cells of the space (R121). -/
def Memory.below {w : Nat} (m : Memory w) (n : Nat) : Bool := m.all fun e => decide (e.1 < n)

/-- The id of a space (R121, D3). -/
def Space.id : Space → Nat
  | .raw => 0
  | .snapraw => 1
  | .txbuf => 2
  | .ptxt => 3

/-- The number of cells of a space (R121). -/
def State.cells (s : State) : Space → Nat
  | .raw => s.cfg.rawCapacity
  | .snapraw => s.cfg.rawCapacity
  | .txbuf => s.cfg.txCapacity
  | .ptxt => s.cfg.ptxtCapacity

/-- What cell `i` of a memory holds: what was written, or the unknown but stable value of a cell nothing
has written since reset (R100, U3). -/
def cellOr {w : Nat} (m : Memory w) (epoch : Nat) (sp : Space) (i : Nat) : BitVec w :=
  (m.find i).getD ((Config.unwrittenCell epoch sp i).setWidth w)

def State.rawCell (s : State) (i : Nat) : Half := cellOr s.raw s.epoch .raw i

def State.snapCell (s : State) (i : Nat) : Half := cellOr s.snapraw s.epoch .snapraw i

def State.txCell (s : State) (i : Nat) : Word := cellOr s.txbuf s.epoch .txbuf i

def State.ptCell (s : State) (i : Nat) : Byte := cellOr s.ptxt s.epoch .ptxt i

/-- The capture `raw[0 .. rawlen-1]` (R15) as the decoders read it: plain unsigned tick counts (R131). -/
def State.capture (s : State) : List Nat :=
  (List.range s.rawlen.toNat).map fun i => (s.rawCell i).toNat

/-- The sequence `txbuf[0 .. arg_len-1]` of SEND.RAW, in index order (R133). -/
def State.txPlan (s : State) : List Nat :=
  (List.range s.argLen.toNat).map fun i => (s.txCell i).toNat

/-- The text `ptxt[0 .. arg_len-1]` of SEND.PRONTO (R462); `ptxt[0]` is the first character (R125). -/
def State.pronText (s : State) : List Byte := (List.range s.argLen.toNat).map s.ptCell

/-- The return of a legal command: `status_ok` its Boolean, `status_cmderr` 0 (R177). -/
def State.answer (s : State) (ok : Bool) : State := { s with statusOk := ok, statusCmderr := false }

/-- An illegal command changes nothing but `status_ok <- 0; status_cmderr <- 1` (R178). -/
def State.illegal (s : State) : State := { s with statusOk := false, statusCmderr := true }

/-- Copies `raw[i]` to `snapraw[i]` for every `i < n`; cells at or above `n` keep what they held (R132). -/
def State.copyCells (s : State) : Nat → Memory 16
  | 0 => s.snapraw
  | n + 1 => Memory.write (State.copyCells s n) n (s.rawCell n)

/-- The reset input (R51, R550): every element of R50 takes its reset value; the parameters stay (R552),
and so do the events still to come and what the HOST has read (DEDUCED, log entry 8). -/
def State.afterRst (s : State) : State :=
  { State.reset with
    cfg := s.cfg, inputs := s.inputs, hostReads := s.hostReads, draws := s.draws, epoch := s.epoch + 1 }

/-- `ir_out` between steps: SPACE, since a transmission is part of one step (R75, R442) (DEDUCED, log entry
22). -/
def State.irOut (_ : State) : Level := .space

end Sys2Proof.Machine
end

