-- ==== Sys2Proof/Machine/Flags.lean ====
section
/-! DEFINITION. The status flags: the READY condition, the codes of `rcvstate`, and the STATUS byte. -/

namespace Sys2Proof.Machine

/-- The encodings of `rcvstate` (R55): IDLE 0, ACTIVE 1, READY 2; 3 is never produced. -/
def RcvState.code : RcvState → BitVec 2
  | .idle => 0
  | .active => 1
  | .ready => 2

/-- The flag `idle` of RawCapture, `rcvstate == READY` (R56). -/
def State.isReady (s : State) : Bool := s.rcvstate == .ready

/-- STATUS (R67): bit 0 OK, bit 1 READY, bit 2 OVERFLOW, bit 3 RX_EN, bit 4 CMD_ERR, bits 6:5 RCVSTATE,
bit 7 zero. -/
def State.status (s : State) : Byte :=
  0#1 ++ s.rcvstate.code ++ BitVec.ofBool s.statusCmderr ++ BitVec.ofBool s.rxEnable
    ++ BitVec.ofBool s.overflow ++ BitVec.ofBool s.isReady ++ BitVec.ofBool s.statusOk

/-- An overflow register: bit 0 the flag, the other bits 0 (R80). -/
def overflowByte (o : Bool) : Byte := 0#7 ++ BitVec.ofBool o

/-- `arg_flags.REPEAT`, bit 0 of ARG_FLAGS (R66, R80). -/
def State.repeatFlag (s : State) : Bool := s.argFlags.getLsbD 0

/-- `arg_flags.FALLBACK`, bit 1 of ARG_FLAGS (R66, R80). -/
def State.fallbackFlag (s : State) : Bool := s.argFlags.getLsbD 1

end Sys2Proof.Machine
end

