-- ==== Sys2Proof/Machine/Operands.lean ====
section
/-! DEFINITION. The operand forms of the commands (R175): which register a command reads, which of its bits,
and the range it is checked against. -/

namespace Sys2Proof.Machine

/-- `arg_nbits` is in 1..32 (R175). -/
def State.nbitsLegal (s : State) : Bool := 1 ≤ s.argNbits.toNat && s.argNbits.toNat ≤ 32

/-- The low `nbits` bits of `arg_value` (R403): higher bits are ignored. -/
def State.lowValue (s : State) : Nat := s.argValue.toNat % 2 ^ s.argNbits.toNat

/-- Bits `n-1 .. 0` of `arg_value`, for the commands of a fixed width (R175). -/
def State.valueField (s : State) (n : Nat) : Nat := s.argValue.toNat % 2 ^ n

/-- Bits `n-1 .. 0` of `arg_addr` (R175). -/
def State.addrField (s : State) (n : Nat) : Nat := s.argAddr.toNat % 2 ^ n

/-- SEND.RAW: `arg_khz` in 1..65535 and `arg_len` in 0..TX_CAPACITY (R175, R441). -/
def State.rawSendLegal (s : State) : Bool :=
  s.argLen.toNat ≤ s.cfg.txCapacity && s.argKhz != 0

/-- SEND.PRONTO: `arg_len` in 0..PTXT_CAPACITY (R175, R462). -/
def State.prontoLegal (s : State) : Bool := s.argLen.toNat ≤ s.cfg.ptxtCapacity

/-- `rev_N(v)` (R14): bit `i` of the result is bit `N-1-i` of `v`. -/
def revBits : Nat → Nat → Nat
  | 0, _ => 0
  | n + 1, v => v % 2 * 2 ^ n + revBits n (v / 2)

end Sys2Proof.Machine
end

