-- ==== Sys2Proof/Machine/DecodersPulse.lean ====
section
/-! DEFINITION. The pulse-distance and pulse-width decoders (R330 to R360): the length test, the frame
reader, and one decoder per protocol. A decoder is a pure function of the capture and `last_tag` (R301); a
capture is the list `raw[0 .. rawlen-1]`, and the reader walks it from entry 1 on (DEDUCED, log entry 10). -/

namespace Sys2Proof.Machine

/-- What a decoder that succeeds answers (R65, R301); its protocol gives the tag. -/
structure Decoded where
  value : Nat
  address : Nat
  bits : Nat
deriving DecidableEq, Repr

/-- The durations of a pre pair or header pair in a frame: 2 if present (R189). -/
def pairLen (present : Bool) : Nat := if present then 2 else 0

/-- CELLS (R332): the cell count that the capture length gives, if there is one in `nmin..nmax`. `rem` is
formed in signed integers. -/
def cellCount (d : FrameDescriptor) (rawlen : Nat) (header : Bool) : Except Cause Nat :=
  let p := pairLen (d.preMark != 0)
  let h := pairLen (header && d.hdrMark != 0)
  let rem : Int :=
    match d.kind with
    | .distance => (rawlen : Int) - 1 - p - h - 1
    | .width => (rawlen : Int) - 1 - h + 1
  if rem < 0 ∨ rem % 2 ≠ 0 then .error .noMatchLength
  else
    let n := (rem / 2).toNat
    if n < d.nmin ∨ d.nmax < n then .error .noMatchLength else .ok n

/-- A pre pair or a header pair: a mark and a space, both in tolerance (R333). -/
def readPair (c : Config) (present : Bool) (mark space : Nat) (es : List Nat) :
    Except Cause (List Nat) :=
  if present then
    match es with
    | m :: s :: rest =>
      if matchMark c m mark && matchSpace c s space then .ok rest else .error .noMatchHeader
    | _ => .error .noMatchHeader
  else .ok es

/-- The `n` cells of a DISTANCE frame, ONE tested before ZERO (R333): the frame word grown from `f`, and the
entries after the cells. -/
def readDistance (c : Config) (d : FrameDescriptor) : Nat → List Nat → Nat →
    Except Cause (Nat × List Nat)
  | 0, es, f => .ok (f, es)
  | n + 1, m :: s :: es, f =>
    if matchMark c m d.bitMark then
      if matchSpace c s d.oneSpace then readDistance c d n es (2 * f + 1)
      else if matchSpace c s d.zeroSpace then readDistance c d n es (2 * f)
      else .error .noMatchBit
    else .error .noMatchBit
  | _ + 1, _, _ => .error .noMatchBit

/-- The mark of a WIDTH cell (R333): the bit it makes, ONE tested before ZERO. -/
def widthBit (c : Config) (d : FrameDescriptor) (m : Nat) : Except Cause Nat :=
  if matchMark c m d.oneMark then .ok 1
  else if matchMark c m d.zeroMark then .ok 0
  else .error .noMatchBit

/-- The `n` cells of a WIDTH frame, with a space between cells and none after the last (R333). -/
def readWidth (c : Config) (d : FrameDescriptor) : Nat → List Nat → Nat →
    Except Cause (Nat × List Nat)
  | 0, es, f => .ok (f, es)
  | 1, m :: es, f =>
    match widthBit c d m with
    | .ok b => .ok (2 * f + b, es)
    | .error e => .error e
  | n + 2, m :: s :: es, f =>
    match widthBit c d m with
    | .ok b =>
      if matchSpace c s d.bitSpace then readWidth c d (n + 1) es (2 * f + b) else .error .noMatchBit
    | .error e => .error e
  | _, _, _ => .error .noMatchBit

/-- The cells of a frame of either kind (R333). -/
def readCells (c : Config) (d : FrameDescriptor) (n : Nat) (es : List Nat) :
    Except Cause (Nat × List Nat) :=
  match d.kind with
  | .distance => readDistance c d n es 0
  | .width => readWidth c d n es 0

/-- The stop mark of a DISTANCE frame (R333). -/
def readStop (c : Config) (d : FrameDescriptor) (es : List Nat) : Except Cause Unit :=
  match d.kind with
  | .width => .ok ()
  | .distance =>
    match es with
    | m :: _ => if matchMark c m d.stopMark then .ok () else .error .noMatchStop
    | [] => .error .noMatchStop

/-- DEC_FRAME (R333): the frame word and the number of cells. The length test comes first (R332), then the
entries in index order (R517). -/
def decFrame (c : Config) (d : FrameDescriptor) (raw : List Nat) (header : Bool) :
    Except Cause (Nat × Nat) := do
  let n ← cellCount d raw.length header
  let es ← readPair c (d.preMark != 0) d.preMark d.preSpace (raw.drop 1)
  let es ← readPair c (header && d.hdrMark != 0) d.hdrMark d.hdrSpace es
  let fe ← readCells c d n es
  readStop c d fe.2
  return (fe.1, n)

/-- SPLIT (R192, R333): the leading `addr_bits` bits are the address. -/
def splitFrame (d : FrameDescriptor) (f n : Nat) : Decoded :=
  { value := f % 2 ^ (n - d.addrBits), address := f / 2 ^ (n - d.addrBits), bits := n - d.addrBits }

/-- The result of a protocol without an address field: all cells are value (R192) (DEDUCED, log entry 9). -/
def wholeFrame (fn : Nat × Nat) : Decoded := { value := fn.1, address := 0, bits := fn.2 }

/-- The result of a header frame that is all value, the body of most decoders below. -/
def decValueFrame (c : Config) (d : FrameDescriptor) (raw : List Nat) : Except Cause Decoded :=
  (decFrame c d raw true).map wholeFrame

/-- The NEC repeat codeword (R196, R340): header mark, repeat space, one mark, nothing else. -/
def necRepeat (c : Config) (d : FrameDescriptor) (raw : List Nat) : Bool :=
  match raw with
  | [_, m, s, e] => matchMark c m d.hdrMark && matchSpace c s d.rptSpace && matchMark c e d.bitMark
  | _ => false

/-- DEC_NEC (R340): a capture of four entries is a repeat codeword or nothing. -/
def decNec (c : Config) (raw : List Nat) (_lastTag : Byte) : Except Cause Decoded :=
  if raw.length = 4 then
    if necRepeat c c.table.nec raw then .ok { value := c.repeatValue.toNat, address := 0, bits := 0 }
    else .error .noMatchHeader
  else decValueFrame c c.table.nec raw

/-- DEC_SONY (R342). -/
def decSony (c : Config) (raw : List Nat) (_lastTag : Byte) : Except Cause Decoded :=
  decValueFrame c c.table.sony raw

/-- DEC_PANASONIC (R344). -/
def decPanasonic (c : Config) (raw : List Nat) (_lastTag : Byte) : Except Cause Decoded :=
  (decFrame c c.table.panasonic raw true).map fun fn => splitFrame c.table.panasonic fn.1 fn.2

/-- DEC_JVC (R346): without a header only after a JVC result and within the window of the pre-roll gap; the
cause of a failure is that of the first attempt. -/
def decJvc (c : Config) (raw : List Nat) (lastTag : Byte) : Except Cause Decoded :=
  match decFrame c c.table.jvc raw true with
  | .ok fn => .ok (wholeFrame fn)
  | .error e =>
    if lastTag = Protocol.jvc.tag ∧ raw.headD 0 ≤ c.jvcRptWindowTicks then
      match decFrame c c.table.jvc raw false with
      | .ok fn => .ok (wholeFrame fn)
      | .error _ => .error e
    else .error e

/-- DEC_SAMSUNG (R348). -/
def decSamsung (c : Config) (raw : List Nat) (_lastTag : Byte) : Except Cause Decoded :=
  decValueFrame c c.table.samsung raw

/-- DEC_WHYNTER (R350). -/
def decWhynter (c : Config) (raw : List Nat) (_lastTag : Byte) : Except Cause Decoded :=
  decValueFrame c c.table.whynter raw

/-- DEC_AIWA (R193, R352): the 26 pre-data bits and the post-data bit are checked; the 15 data bits travel
least significant first. -/
def decAiwa (c : Config) (raw : List Nat) (_lastTag : Byte) : Except Cause Decoded :=
  match decFrame c c.table.aiwa raw true with
  | .error e => .error e
  | .ok fn =>
    if fn.1 / 2 ^ 16 = c.aiwaPre ∧ fn.1 % 2 = 0 then
      .ok { value := revBits 15 (fn.1 / 2 % 2 ^ 15), address := 0, bits := 15 }
    else .error .noMatchFixed

/-- DEC_LG (R354): the checksum some LG frames carry is not verified. -/
def decLg (c : Config) (raw : List Nat) (_lastTag : Byte) : Except Cause Decoded :=
  decValueFrame c c.table.lg raw

/-- DEC_SANYO (R356). -/
def decSanyo (c : Config) (raw : List Nat) (_lastTag : Byte) : Except Cause Decoded :=
  decValueFrame c c.table.sanyo raw

/-- DEC_MITSUBISHI (R358): no header in its descriptor, so the first cell starts at entry 1. -/
def decMitsubishi (c : Config) (raw : List Nat) (_lastTag : Byte) : Except Cause Decoded :=
  decValueFrame c c.table.mitsubishi raw

/-- DEC_DENON (R360). -/
def decDenon (c : Config) (raw : List Nat) (_lastTag : Byte) : Except Cause Decoded :=
  (decFrame c c.table.denon raw true).map fun fn => splitFrame c.table.denon fn.1 fn.2

end Sys2Proof.Machine
end

