-- ==== Sys2Proof/Machine/DecodersBiphase.lean ====
section
/-! DEFINITION. The biphase decoders: the level cursor GETLEVEL (R381) and the decoders of RC5 (R383) and RC6
(R385). -/

namespace Sys2Proof.Machine

/-- The cursor of GETLEVEL (R381): the entry being consumed and how many of its half cells are handed out. -/
structure Cursor where
  o : Nat
  used : Nat
deriving DecidableEq, Repr

/-- The level of an entry follows from its index (R57): odd is a mark, even a space. -/
def entryLevel (o : Nat) : Level := if o % 2 = 1 then .mark else .space

/-- The predicate an entry of that level is tested with (R244). -/
def matchLevel (c : Config) (l : Level) (m d : Nat) : Bool :=
  match l with
  | .mark => matchMark c m d
  | .space => matchSpace c m d

/-- How many half cells an entry is: 1, 2 or 3, the first that matches (R381). -/
def halfCells (c : Config) (l : Level) (w t1 : Nat) : Option Nat :=
  if matchLevel c l w (1 * t1) then some 1
  else if matchLevel c l w (2 * t1) then some 2
  else if matchLevel c l w (3 * t1) then some 3
  else none

/-- GETLEVEL (R381): the level of the next half cell and the cursor after it; `none` is ERR. Past the last
entry the line is idle and the cursor stays. -/
def getLevel (c : Config) (raw : List Nat) (t1 : Nat) (k : Cursor) : Option Level × Cursor :=
  if raw.length ≤ k.o then (some .space, k)
  else
    let l := entryLevel k.o
    match halfCells c l (raw.getD k.o 0) t1 with
    | none => (none, k)
    | some avail =>
      if avail ≤ k.used + 1 then (some l, { o := k.o + 1, used := 0 })
      else (some l, { o := k.o, used := k.used + 1 })

/-- Half cells that must have the given levels, in order: a start sequence (R383, R385). -/
def expectLevels (c : Config) (raw : List Nat) (t1 : Nat) : List Level → Cursor → Except Cause Cursor
  | [], k => .ok k
  | l :: ls, k =>
    let r := getLevel c raw t1 k
    if r.1 = some l then expectLevels c raw t1 ls r.2 else .error .noMatchHeader

/-- One half of a cell: one half cell, or two that must agree where the half is doubled (R385). -/
def halfOf (c : Config) (raw : List Nat) (t1 : Nat) (doubled : Bool) (k : Cursor) :
    Except Cause (Option Level × Cursor) :=
  let a := getLevel c raw t1 k
  if doubled then
    let a' := getLevel c raw t1 a.2
    if a'.1 = a.1 then .ok (a.1, a'.2) else .error .noMatchBit
  else .ok a

/-- The bit of a cell whose first half has the level `one` when it is a 1; equal halves and ERR are neither
(R383, R385). -/
def cellBit (one : Level) (a b : Option Level) : Except Cause Nat :=
  match a, b with
  | some .space, some .mark => .ok (if one = .space then 1 else 0)
  | some .mark, some .space => .ok (if one = .mark then 1 else 0)
  | _, _ => .error .noMatchBit

/-- The cells up to the end of the capture (R383, R385), `n` of them read so far with the value `v`. `one`
is the level of the first half of a 1, `dbl` the index of the cell whose halves are doubled, if any. The
first argument bounds the passes: it starts at `nmax + 1`, and the pass that reaches `nmax + 1` cells
fails by itself (DEDUCED, log entry 10). -/
def readBiphase (c : Config) (d : BiphaseDescriptor) (one : Level) (dbl : Option Nat) (raw : List Nat) :
    Nat → Cursor → Nat → Nat → Except Cause (Nat × Nat)
  | 0, _, _, _ => .error .noMatchLength
  | fuel + 1, k, v, n =>
    if raw.length ≤ k.o then .ok (v, n)
    else
      match halfOf c raw d.t1 (dbl == some n) k with
      | .error e => .error e
      | .ok a =>
        match halfOf c raw d.t1 (dbl == some n) a.2 with
        | .error e => .error e
        | .ok b =>
          match cellBit one a.1 b.1 with
          | .error e => .error e
          | .ok bit =>
            if d.nmax < n + 1 then .error .noMatchLength
            else readBiphase c d one dbl raw fuel b.2 (2 * v + bit) (n + 1)

/-- All cells of a biphase frame: at least `nmin` of them (R383, R385). -/
def biphaseResult (c : Config) (d : BiphaseDescriptor) (one : Level) (dbl : Option Nat) (raw : List Nat)
    (k : Cursor) : Except Cause Decoded :=
  match readBiphase c d one dbl raw (d.nmax + 1) k 0 0 with
  | .error e => .error e
  | .ok vn => if vn.2 < d.nmin then .error .noMatchLength else .ok { value := vn.1, address := 0, bits :=
  vn.2 }

/-- DEC_RC5 (R383): a start sequence MARK, SPACE, MARK, then cells in which SPACE, MARK is a 1. -/
def decRc5 (c : Config) (raw : List Nat) (_lastTag : Byte) : Except Cause Decoded :=
  let d := c.table.rc5
  if raw.length < d.minRawlen then .error .noMatchLength
  else
    match expectLevels c raw d.t1 [.mark, .space, .mark] { o := 1, used := 0 } with
    | .error e => .error e
    | .ok k => biphaseResult c d .space none raw k

/-- DEC_RC6 (R385): the header pair, a start bit MARK, SPACE, then cells in which MARK, SPACE is a 1 and the
fourth is of double width. -/
def decRc6 (c : Config) (raw : List Nat) (_lastTag : Byte) : Except Cause Decoded :=
  let d := c.table.rc6
  if raw.length < d.minRawlen then .error .noMatchLength
  else if matchMark c (raw.getD 1 0) d.hdrMark && matchSpace c (raw.getD 2 0) d.hdrSpace then
    match expectLevels c raw d.t1 [.mark, .space] { o := 3, used := 0 } with
    | .error e => .error e
    | .ok k => biphaseResult c d .mark (some 3) raw k
  else .error .noMatchHeader

end Sys2Proof.Machine
end

