-- ==== Sys2Proof/Machine/Hash.lean ====
section
/-! DEFINITION. The HashDecoder (R480 to R482): a signature of the comparisons of neighbouring entries. -/

namespace Sys2Proof.Machine

/-- COMPARE (R481): 0 shorter, 2 longer, 1 equal, against the ratio HASH_TOL_NUM / HASH_TOL_DEN. -/
def hashCompare (c : Config) (old new : Nat) : Word :=
  if new * c.hashTolDen < old * c.hashTolNum then 0
  else if old * c.hashTolDen < new * c.hashTolNum then 2
  else 1

/-- One fold step: multiply modulo 2^32, then exclusive or with the code (R482). -/
def hashStep (c : Config) (h code : Word) : Word := h * c.hashPrime ^^^ code

/-- The fold over neighbours, `old` the entry before the list (R481). -/
def hashFrom (c : Config) : Nat → List Nat → Word → Word
  | _, [], h => h
  | old, new :: es, h => hashFrom c new es (hashStep c h (hashCompare c old new))

/-- HASH (R481): entry 0, the pre-roll gap, is not read; it cannot fail. -/
def hashCapture (c : Config) (raw : List Nat) : Word :=
  match raw.drop 1 with
  | [] => c.hashBasis
  | e :: es => hashFrom c e es c.hashBasis

/-- The HashDecoder's result: the signature, no address and no bit count (R481). -/
def decHash (c : Config) (raw : List Nat) : Decoded :=
  { value := (hashCapture c raw).toNat, address := 0, bits := 0 }

end Sys2Proof.Machine
end

