-- ==== Sys2Proof/Machine/Dispatcher.lean ====
section
/-! DEFINITION. The DecodeDispatcher (R300 to R307): RX_DECODE, RX_DECODE_COPY and the AVAILABLE commands. -/

namespace Sys2Proof.Machine

/-- The decoder of each protocol (R180); DISH and SHARP have none (R362). -/
def runDecoder (c : Config) (raw : List Nat) (lastTag : Byte) : Protocol → Option Decoded
  | .rc5 => (decRc5 c raw lastTag).toOption
  | .rc6 => (decRc6 c raw lastTag).toOption
  | .nec => (decNec c raw lastTag).toOption
  | .sony => (decSony c raw lastTag).toOption
  | .panasonic => (decPanasonic c raw lastTag).toOption
  | .jvc => (decJvc c raw lastTag).toOption
  | .samsung => (decSamsung c raw lastTag).toOption
  | .whynter => (decWhynter c raw lastTag).toOption
  | .aiwa => (decAiwa c raw lastTag).toOption
  | .lg => (decLg c raw lastTag).toOption
  | .sanyo => (decSanyo c raw lastTag).toOption
  | .mitsubishi => (decMitsubishi c raw lastTag).toOption
  | .denon => (decDenon c raw lastTag).toOption
  | .dish => none
  | .sharp => none

/-- The priority loop of R303: the first enabled decoder that succeeds. -/
def firstMatch (c : Config) (raw : List Nat) (lastTag : Byte) : List Protocol → Option (Protocol × Decoded)
  | [] => none
  | p :: ps =>
    if c.decEnabled p then
      match runDecoder c raw lastTag p with
      | some d => some (p, d)
      | none => firstMatch c raw lastTag ps
    else firstMatch c raw lastTag ps

/-- DISPATCH (R303): the first match, or UNKNOWN with the HashDecoder's signature. -/
def dispatch (c : Config) (raw : List Nat) (lastTag : Byte) : Byte × Decoded :=
  match firstMatch c raw lastTag c.decodeOrder with
  | some pd => (pd.1.tag, pd.2)
  | none => (tagUnknown, decHash c raw)

/-- The result record of a decode: all six fields at once (R304, R305) (each in its width: DEDUCED, log entry
18). -/
def State.resultOf (s : State) (td : Byte × Decoded) : DecodeResult :=
  { tag := td.1
    value := BitVec.ofNat 32 td.2.value
    address := BitVec.ofNat 16 td.2.address
    bits := BitVec.ofNat 8 td.2.bits
    rawlen := s.rawlen
    overflow := s.overflow }

/-- DISPATCH on the capture now in RAW (R305, R306). -/
def State.dispatched (s : State) : Byte × Decoded := dispatch s.cfg s.capture s.lastTag

/-- RX_DECODE (R305). -/
def execRxDecode (s : State) : Host.Outcome State Fault Refusal :=
  if s.isReady then
    .next (({ s with res := s.resultOf s.dispatched, lastTag := s.dispatched.1 } : State).answer true)
  else .next (s.answer false)

/-- RX_DECODE_COPY (R306): the result and a copy of the capture go to the snapshot; `res` stays. -/
def execRxDecodeCopy (s : State) : Host.Outcome State Fault Refusal :=
  if s.isReady then
    .next (({ s with
      snap := s.resultOf s.dispatched
      snapraw := s.copyCells s.rawlen.toNat
      lastTag := s.dispatched.1 } : State).answer true)
  else .next (s.answer false)

/-- AVAILABLE.`p` (R307): illegal where the decoder is not enabled, then OK = 0 outside READY, then whether
that one decoder would succeed. -/
def State.available (s : State) (p : Protocol) : State :=
  if s.cfg.decEnabled p then
    if s.isReady then s.answer (runDecoder s.cfg s.capture s.lastTag p).isSome else s.answer false
  else s.illegal

/-- AVAILABLE.HASH (R307): the HashDecoder never fails. -/
def execAvailableHash (s : State) : Host.Outcome State Fault Refusal := .next (s.answer s.isReady)

/-- AVAILABLE.RC5 (R172, R307). -/
def execAvailableRc5 (s : State) : Host.Outcome State Fault Refusal := .next (s.available .rc5)

/-- AVAILABLE.RC6 (R172, R307). -/
def execAvailableRc6 (s : State) : Host.Outcome State Fault Refusal := .next (s.available .rc6)

/-- AVAILABLE.NEC (R172, R307). -/
def execAvailableNec (s : State) : Host.Outcome State Fault Refusal := .next (s.available .nec)

/-- AVAILABLE.SONY (R172, R307). -/
def execAvailableSony (s : State) : Host.Outcome State Fault Refusal := .next (s.available .sony)

/-- AVAILABLE.PANASONIC (R172, R307). -/
def execAvailablePanasonic (s : State) : Host.Outcome State Fault Refusal := .next (s.available .panasonic)

/-- AVAILABLE.JVC (R172, R307). -/
def execAvailableJvc (s : State) : Host.Outcome State Fault Refusal := .next (s.available .jvc)

/-- AVAILABLE.SAMSUNG (R172, R307). -/
def execAvailableSamsung (s : State) : Host.Outcome State Fault Refusal := .next (s.available .samsung)

/-- AVAILABLE.WHYNTER (R172, R307). -/
def execAvailableWhynter (s : State) : Host.Outcome State Fault Refusal := .next (s.available .whynter)

/-- AVAILABLE.AIWA (R172, R307). -/
def execAvailableAiwa (s : State) : Host.Outcome State Fault Refusal := .next (s.available .aiwa)

/-- AVAILABLE.LG (R172, R307). -/
def execAvailableLg (s : State) : Host.Outcome State Fault Refusal := .next (s.available .lg)

/-- AVAILABLE.SANYO (R172, R307). -/
def execAvailableSanyo (s : State) : Host.Outcome State Fault Refusal := .next (s.available .sanyo)

/-- AVAILABLE.MITSUBISHI (R172, R307). -/
def execAvailableMitsubishi (s : State) : Host.Outcome State Fault Refusal := .next (s.available .mitsubishi)

/-- AVAILABLE.DENON (R172, R307). -/
def execAvailableDenon (s : State) : Host.Outcome State Fault Refusal := .next (s.available .denon)

end Sys2Proof.Machine
end

