-- ==== Sys2Proof/Machine/Carrier.lean ====
section
/-! DEFINITION. The CarrierModulator: SENDRAW, the common last stage of every send (R440, R442), and the
command SEND.RAW (R441). -/

namespace Sys2Proof.Machine

/-- The segments of a plan, an element of the given level first and then alternately (R401, R442). An element
outside the range of R401, which only parameters that R9 does not bound can give, is played uncut (DESIGN CHOICE,
log entry 25). -/
def segmentsFrom (khz : Nat) : Level → List Nat → List Segment
  | _, [] => []
  | .mark, us :: plan => .mark us khz :: segmentsFrom khz .space plan
  | .space, us :: plan => .space us :: segmentsFrom khz .mark plan

/-- SENDRAW (R442): `rx_enable` is cleared, and every element gives exactly one segment. -/
def State.sendRaw (s : State) (plan : List Nat) (khz : Nat) : State :=
  { s with rxEnable := false, txout := s.txout ++ segmentsFrom khz .mark plan }

/-- SEND.RAW (R441). -/
def execSendRaw (s : State) : Host.Outcome State Fault Refusal :=
  if s.rawSendLegal then .next ((s.sendRaw s.txPlan s.argKhz.toNat).answer true) else .next s.illegal

end Sys2Proof.Machine
end

