-- ==== Sys2Proof/Machine/Encoders.lean ====
section
/-! DEFINITION. The protocol encoders and their SEND commands (R400 to R421). -/

namespace Sys2Proof.Machine

/-- The `n` cells of a DISTANCE frame word, most significant first (R404). -/
def distanceCells (d : FrameDescriptor) (f : Nat) : Nat → List Nat
  | 0 => []
  | i + 1 => d.bitMark :: (if f.testBit i then d.oneSpace else d.zeroSpace) :: distanceCells d f i

/-- The `n` cells of a WIDTH frame word, with a space between cells and none after the last (R404). -/
def widthCells (d : FrameDescriptor) (f : Nat) : Nat → List Nat
  | 0 => []
  | i + 1 =>
    (if f.testBit i then d.oneMark else d.zeroMark)
      :: (if i = 0 then [] else d.bitSpace :: widthCells d f i)

/-- A pre pair or a header pair, where it is present (R404). -/
def pairOf (present : Bool) (mark space : Nat) : List Nat := if present then [mark, space] else []

/-- ENC_FRAME (R404): the plan of a frame word `f` of `n` cells. -/
def encFrame (d : FrameDescriptor) (f n : Nat) (header : Bool) : List Nat :=
  pairOf (d.preMark != 0) d.preMark d.preSpace
    ++ pairOf (header && d.hdrMark != 0) d.hdrMark d.hdrSpace
    ++ (match d.kind with
        | .distance => distanceCells d f n ++ [d.stopMark]
        | .width => widthCells d f n)

/-- The adding half of MERGE (R405): adjacent half cells of one level become one element. -/
def mergeHalves : List (Level × Nat) → List (Level × Nat)
  | [] => []
  | (l, t) :: hs =>
    match mergeHalves hs with
    | (l', t') :: rest => if l = l' then (l, t + t') :: rest else (l, t) :: (l', t') :: rest
    | [] => [(l, t)]

/-- A leading SPACE element, if any, is dropped (R405). -/
def dropLeadingSpace : List (Level × Nat) → List (Level × Nat)
  | (.space, _) :: hs => hs
  | hs => hs

/-- A trailing SPACE element, if any, is dropped (R405). -/
def dropTrailingSpace : List (Level × Nat) → List (Level × Nat)
  | [] => []
  | [(.space, _)] => []
  | h :: hs => h :: dropTrailingSpace hs

/-- MERGE (R405): half cells to a plan that begins and ends with a mark. -/
def merge (hs : List (Level × Nat)) : List Nat :=
  (dropTrailingSpace (dropLeadingSpace (mergeHalves hs))).map Prod.snd

/-- The half cells of one biphase bit: `one` is the level of the first half of a 1 (R195). -/
def bitHalves (one : Level) (bit : Bool) (t : Nat) : List (Level × Nat) :=
  if bit == (one == .mark) then [(.mark, t), (.space, t)] else [(.space, t), (.mark, t)]

/-- The half cells of the RC5 data bits `i-1 .. 0` of `v` (R420). -/
def rc5Halves (t v : Nat) : Nat → List (Level × Nat)
  | 0 => []
  | i + 1 => bitHalves .space (v.testBit i) t ++ rc5Halves t v i

/-- ENC_RC5 (R420): the start MARK, SPACE, MARK, then the data bits. -/
def encRc5 (d : BiphaseDescriptor) (v n : Nat) : List Nat :=
  merge ([(.mark, d.t1), (.space, d.t1), (.mark, d.t1)] ++ rc5Halves d.t1 v n)

/-- The half cells of the RC6 data bits `i-1 .. 0` of an `n`-bit value: the fourth sent is of double width
(R421). -/
def rc6Halves (t v n : Nat) : Nat → List (Level × Nat)
  | 0 => []
  | i + 1 =>
    bitHalves .mark (v.testBit i) (if n - i = 4 then 2 * t else t) ++ rc6Halves t v n i

/-- ENC_RC6 (R421): header, start bit, then the data bits. -/
def encRc6 (d : BiphaseDescriptor) (v n : Nat) : List Nat :=
  merge ([(.mark, d.hdrMark), (.space, d.hdrSpace), (.mark, d.t1), (.space, d.t1)]
    ++ rc6Halves d.t1 v n n)

/-- The AIWA frame word (R193): pre-data, the 15 data bits reversed, a 0. -/
def aiwaWord (c : Config) (v : Nat) : Nat := c.aiwaPre * 2 ^ 16 + revBits 15 v * 2

/-- The SHARP frame word (R194): 5 address bits, 8 command bits, 0b10. -/
def sharpWord (addr cmd : Nat) : Nat := addr * 2 ^ 10 + cmd * 2 ^ 2 + 2

/-- The skeleton of every protocol send (R402): illegal where the encoder is not enabled or an operand is
out of range; otherwise the plan is played. -/
def State.send (s : State) (p : Protocol) (legal : Bool) (plan : List Nat) (khz : Nat) : State :=
  if s.cfg.encEnabled p && legal then (s.sendRaw plan khz).answer true else s.illegal

/-- A send of the low `nbits` bits of `arg_value` as one frame (R403). -/
def State.sendFrame (s : State) (p : Protocol) (d : FrameDescriptor) (header : Bool) : State :=
  s.send p s.nbitsLegal (encFrame d s.lowValue s.argNbits.toNat header) d.khz

/-- SEND.RC5 (R420). -/
def execSendRc5 (s : State) : Host.Outcome State Fault Refusal :=
  .next (s.send .rc5 s.nbitsLegal (encRc5 s.cfg.table.rc5 s.lowValue s.argNbits.toNat) s.cfg.table.rc5.khz)

/-- SEND.RC6 (R421). -/
def execSendRc6 (s : State) : Host.Outcome State Fault Refusal :=
  .next (s.send .rc6 s.nbitsLegal (encRc6 s.cfg.table.rc6 s.lowValue s.argNbits.toNat) s.cfg.table.rc6.khz)

/-- SEND.NEC (R407). -/
def execSendNec (s : State) : Host.Outcome State Fault Refusal :=
  .next (s.sendFrame .nec s.cfg.table.nec true)

/-- SEND.SONY (R408). -/
def execSendSony (s : State) : Host.Outcome State Fault Refusal :=
  .next (s.sendFrame .sony s.cfg.table.sony true)

/-- SEND.PANASONIC (R409): 16 address bits, then 32 value bits; `arg_nbits` is not read. -/
def execSendPanasonic (s : State) : Host.Outcome State Fault Refusal :=
  .next (s.send .panasonic true
    (encFrame s.cfg.table.panasonic (s.addrField 16 * 2 ^ 32 + s.valueField 32) 48 true)
    s.cfg.table.panasonic.khz)

/-- SEND.JVC (R410): with REPEAT set the header pair is left out. -/
def execSendJvc (s : State) : Host.Outcome State Fault Refusal :=
  .next (s.sendFrame .jvc s.cfg.table.jvc (!s.repeatFlag))

/-- SEND.SAMSUNG (R411). -/
def execSendSamsung (s : State) : Host.Outcome State Fault Refusal :=
  .next (s.sendFrame .samsung s.cfg.table.samsung true)

/-- SEND.WHYNTER (R412). -/
def execSendWhynter (s : State) : Host.Outcome State Fault Refusal :=
  .next (s.sendFrame .whynter s.cfg.table.whynter true)

/-- SEND.AIWA (R413): `arg_nbits` is not read. -/
def execSendAiwa (s : State) : Host.Outcome State Fault Refusal :=
  .next (s.send .aiwa true (encFrame s.cfg.table.aiwa (aiwaWord s.cfg (s.valueField 15)) 42 true)
    s.cfg.table.aiwa.khz)

/-- SEND.LG (R414). -/
def execSendLg (s : State) : Host.Outcome State Fault Refusal :=
  .next (s.sendFrame .lg s.cfg.table.lg true)

/-- SEND.DENON (R415): 4 address bits, then 10 value bits; `arg_nbits` is not read. -/
def execSendDenon (s : State) : Host.Outcome State Fault Refusal :=
  .next (s.send .denon true
    (encFrame s.cfg.table.denon (s.addrField 4 * 2 ^ 10 + s.valueField 10) 14 true)
    s.cfg.table.denon.khz)

/-- SEND.DISH (R416). -/
def execSendDish (s : State) : Host.Outcome State Fault Refusal :=
  .next (s.sendFrame .dish s.cfg.table.dish true)

/-- SEND.SHARP (R417): one frame of 15 cells; `arg_nbits` is not read. -/
def execSendSharp (s : State) : Host.Outcome State Fault Refusal :=
  .next (s.send .sharp true
    (encFrame s.cfg.table.sharp (sharpWord (s.addrField 5) (s.valueField 8)) 15 true)
    s.cfg.table.sharp.khz)

end Sys2Proof.Machine
end

