-- ==== Sys2Proof/Machine/Sampler.lean ====
section
/-! DEFINITION. The SignalSampler: the TICK step of the SAMPLER agent (R263) and the control commands of the
HOST that act on the sampler (R270 to R275). -/

namespace Sys2Proof.Machine

/-- `sat(v)`, at most `SAMPLE_MAX` (R13). -/
def satTicks (c : Config) (v : Nat) : Nat := min v c.sampleMax

/-- `counter <- sat(counter + 1)` (R263). -/
def State.count (s : State) : State :=
  { s with counter := BitVec.ofNat 16 (satTicks s.cfg (s.counter.toNat + 1)) }

/-- `counter <- 0 ; cur_level <- level`, what every detected change ends with (R263). -/
def State.edge (s : State) (level : Level) : State := { s with counter := 0, curLevel := level }

/-- The push of R264: the counter goes to the cell at `rawlen`, and `rawlen` grows by one. -/
def State.push (s : State) : State :=
  { s with raw := Memory.write s.raw s.rawlen.toNat s.counter, rawlen := s.rawlen + 1 }

/-- The first mark of a capture: `raw[0]` is the pre-roll gap (R57, R263). -/
def State.startCapture (s : State) : State :=
  { s with raw := Memory.write s.raw 0 s.counter, rawlen := 1, rcvstate := .active }

/-- A sample that arrives with the buffer full is dropped (R265). -/
def State.overflowed (s : State) : State := { s with overflow := true, rcvstate := .ready }

/-- TICK in IDLE, after the increment (R263). -/
def tickIdle (level : Level) (s : State) : State :=
  if level = s.curLevel then s
  else if level = .mark then s.startCapture.edge level
  else s.edge level

/-- TICK in ACTIVE, after the increment: a change first, full before push, and the idle gap only where
there is no change (R263, R265, R266, R516). -/
def tickActive (level : Level) (s : State) : State :=
  if level = s.curLevel then
    if s.curLevel = .space ∧ s.cfg.idleGapTicks < s.counter.toNat then { s with rcvstate := .ready }
    else s
  else if s.cfg.rawCapacity ≤ s.rawlen.toNat then s.overflowed.edge level
  else s.push.edge level

/-- TICK in READY, after the increment: only the edge detector runs (R267). -/
def tickReady (level : Level) (s : State) : State :=
  if level = s.curLevel then s else s.edge level

/-- TICK (R263): nothing at all while `rx_enable` is 0. -/
def tick (level : Level) (s : State) : State :=
  if s.rxEnable then
    match s.rcvstate with
    | .idle => tickIdle level s.count
    | .active => tickActive level s.count
    | .ready => tickReady level s.count
  else s

/-- RawCapture as RX_RESUME and RX_ENABLE leave it: IDLE and empty (R270, R272). -/
def State.emptied (s : State) : State := { s with rcvstate := .idle, rawlen := 0, overflow := false }

/-- NOP (R275). -/
def execNop (s : State) : Host.Outcome State Fault Refusal := .next (s.answer true)

/-- RX_ENABLE (R270): the sampler starts again from an empty capture, armed. -/
def execRxEnable (s : State) : Host.Outcome State Fault Refusal :=
  .next (({ s.emptied with counter := 0, curLevel := .space, rxEnable := true } : State).answer true)

/-- RX_DISABLE (R271): `rx_enable <- 0` and nothing else. -/
def execRxDisable (s : State) : Host.Outcome State Fault Refusal :=
  .next (({ s with rxEnable := false } : State).answer true)

/-- RX_RESUME (R272): `counter`, `cur_level` and `rx_enable` keep their values. -/
def execRxResume (s : State) : Host.Outcome State Fault Refusal := .next (s.emptied.answer true)

/-- RX_IS_IDLE (R273): whether `rcvstate` is READY. -/
def execRxIsIdle (s : State) : Host.Outcome State Fault Refusal := .next (s.answer s.isReady)

end Sys2Proof.Machine
end

