-- ==== Sys2Proof/Machine/HostPort.lean ====
section
/-! DEFINITION. The host port: the register map (R80), the cell accesses (R121 to R124, R141), and how a
step of the outside world reaches the block (numbers and values from outside are unbounded and cut to width:
DEDUCED, log entry 23); fetching a command from the CMD write is here too. -/

namespace Sys2Proof.Machine

/-- A register or cell value on the port: its bits, zero above them. -/
def toWord {w : Nat} (v : BitVec w) : Word := v.setWidth 32

/-- What a read of register `n` returns (R80); `none` where the value is unspecified, which is RAWLEN
outside READY (R69, R141). A number that is not listed reads 0 (R123), and so does CMD (R68). -/
def State.regValue (s : State) (n : Nat) : Option Word :=
  match n with
  | 0x01 => some (toWord s.status)
  | 0x02 => some (toWord s.argValue)
  | 0x03 => some (toWord s.argAddr)
  | 0x04 => some (toWord s.argNbits)
  | 0x05 => some (toWord s.argFlags)
  | 0x06 => some (toWord s.argKhz)
  | 0x07 => some (toWord s.argLen)
  | 0x08 => if s.isReady then some (toWord s.rawlen) else none
  | 0x10 => some (toWord s.res.tag)
  | 0x11 => some (toWord s.res.value)
  | 0x12 => some (toWord s.res.address)
  | 0x13 => some (toWord s.res.bits)
  | 0x14 => some (toWord s.res.rawlen)
  | 0x15 => some (toWord (overflowByte s.res.overflow))
  | 0x18 => some (toWord s.snap.tag)
  | 0x19 => some (toWord s.snap.value)
  | 0x1A => some (toWord s.snap.address)
  | 0x1B => some (toWord s.snap.bits)
  | 0x1C => some (toWord s.snap.rawlen)
  | 0x1D => some (toWord (overflowByte s.snap.overflow))
  | _ => some 0

/-- What a read of a cell returns (R123, R124): 0 past the end of the space; `none` where the value is
unspecified, which is RAW outside READY and RAW or SNAPRAW at or above its valid length (R141, U1, U2). -/
def State.cellValue (s : State) (sp : Space) (i : Nat) : Option Word :=
  if s.cells sp ≤ i then some 0
  else
    match sp with
    | .raw => if s.isReady ∧ i < s.rawlen.toNat then some (toWord (s.rawCell i)) else none
    | .snapraw => if i < s.snap.rawlen.toNat then some (toWord (s.snapCell i)) else none
    | .txbuf => some (s.txCell i)
    | .ptxt => some (toWord (s.ptCell i))

/-- A HOST read returns its value and changes nothing of the block (R127); an unspecified one is a fresh
draw of 16 bits, the width of RAWLEN and of a RAW or SNAPRAW cell (R141, U1). -/
def State.deliver (s : State) (v : Option Word) : State :=
  match v with
  | some x => { s with hostReads := s.hostReads ++ [x] }
  | none =>
    { s with hostReads := s.hostReads ++ [toWord (Config.unspecifiedRead s.draws)], draws := s.draws + 1 }

/-- A write of register `n` other than CMD (R80, R124): the value modulo the register's width; a read-only
or unlisted register ignores it. -/
def State.regStore (s : State) (n v : Nat) : State :=
  match n with
  | 0x02 => { s with argValue := BitVec.ofNat 32 v }
  | 0x03 => { s with argAddr := BitVec.ofNat 16 v }
  | 0x04 => { s with argNbits := BitVec.ofNat 8 v }
  | 0x05 => { s with argFlags := BitVec.ofNat 2 v }
  | 0x06 => { s with argKhz := BitVec.ofNat 16 v }
  | 0x07 => { s with argLen := BitVec.ofNat 16 v }
  | _ => s

/-- A write of a cell (R121, R123, R124): the value modulo the cell's width; a read-only space and an index
past the end ignore it. -/
def State.cellStore (s : State) (sp : Space) (i v : Nat) : State :=
  if s.cells sp ≤ i then s
  else
    match sp with
    | .raw => s
    | .snapraw => s
    | .txbuf => { s with txbuf := Memory.write s.txbuf i (BitVec.ofNat 32 v) }
    | .ptxt => { s with ptxt := Memory.write s.ptxt i (BitVec.ofNat 8 v) }

/-- The command bytes an event carries, if it is a write of CMD: `c[7:0]` of the value written (R124,
R170). -/
def fetchCommand : Input → Option (List Byte)
  | .regWrite n v => if n = 0 then some [BitVec.ofNat 8 v] else none
  | .tick _ => none
  | .regRead _ => none
  | .memWrite _ _ _ => none
  | .memRead _ _ => none
  | .rst => none

/-- The event that writes a command byte to CMD (R170). -/
def commandWrite (b : Byte) : Input := .regWrite 0 b.toNat

/-- What an event that is no command does. -/
def applyInput (s : State) : Input → State
  | .tick level => tick level s
  | .regWrite n v => s.regStore n v
  | .regRead n => s.deliver (s.regValue n)
  | .memWrite sp i v => s.cellStore sp i v
  | .memRead sp i => s.deliver (s.cellValue sp i)
  | .rst => s.afterRst

end Sys2Proof.Machine
end

