-- ==== Sys2Proof/Machine/Pronto.lean ====
section
/-! DEFINITION. The ProntoCodec (R460 to R468) and the command SEND.PRONTO (R470). -/

namespace Sys2Proof.Machine

/-- The one separator of fields, the character code 0x20 (R463). -/
def prontoSpace : Byte := 0x20

/-- A finished field goes before the fields after it; an empty run is no field (R463). -/
def closeField (cur : List Byte) (fields : List (List Byte)) : List (List Byte) :=
  match cur with
  | [] => fields
  | _ :: _ => cur :: fields

/-- The fields of a text, `cur` the run read so far: the maximal runs of cells other than 0x20 (R463). -/
def fieldsFrom : List Byte → List Byte → List (List Byte)
  | [], cur => closeField cur []
  | ch :: text, cur =>
    if ch = prontoSpace then closeField cur (fieldsFrom text []) else fieldsFrom text (cur ++ [ch])

/-- A hexadecimal digit in either case (R463). -/
def hexDigit (ch : Byte) : Option Nat :=
  let n := ch.toNat
  if 0x30 ≤ n ∧ n ≤ 0x39 then some (n - 0x30)
  else if 0x41 ≤ n ∧ n ≤ 0x46 then some (n - 0x41 + 10)
  else if 0x61 ≤ n ∧ n ≤ 0x66 then some (n - 0x61 + 10)
  else none

/-- The word of a field of exactly four digits, the first the most significant (R463). -/
def fieldWord : List Byte → Option Nat
  | [a, b, c, d] =>
    match hexDigit a, hexDigit b, hexDigit c, hexDigit d with
    | some d3, some d2, some d1, some d0 => some (4096 * d3 + 256 * d2 + 16 * d1 + d0)
    | _, _, _, _ => none
  | _ => none

/-- The words of all fields, if every field is one (R463, R470). -/
def fieldWords : List (List Byte) → Option (List Nat)
  | [] => some []
  | f :: fs =>
    match fieldWord f, fieldWords fs with
    | some w, some ws => some (w :: ws)
    | _, _ => none

/-- The carrier frequency in kilohertz, rounded to the nearest (R467). The spec gives PRONTO_UNIT_PS no lower bound
and takes the divisor as not 0 (R18); with a unit of 0, which `Config.wf` refuses, Lean's division gives 0 kHz, so
every text is rejected (DESIGN CHOICE, log entry 24). -/
def prontoKhz (c : Config) (n : Nat) : Nat := (10 ^ 12 / (n * c.prontoUnitPs) + 500) / 1000

/-- A count of carrier periods in microseconds, rounded to the nearest (R468). R9 sets no upper bound on
PRONTO_UNIT_PS; for a unit so long that the result leaves the `0 .. 2^32 - 1` of R401 it is not cut (DESIGN
CHOICE, log entry 25). -/
def prontoUs (c : Config) (n count : Nat) : Nat := (count * n * c.prontoUnitPs + 500000) / 1000000

/-- SELECT (R464): the sub-sequence asked for, or the other one where it is empty and fallback is on. -/
def prontoSelect (once rpt : List Nat) (isRepeat fallback : Bool) : Except Cause (List Nat) :=
  let want := if isRepeat then rpt else once
  let other := if isRepeat then once else rpt
  if want ≠ [] then .ok want
  else if fallback = true ∧ other ≠ [] then .ok other
  else .error .unsupportedRequest

/-- The parse of a text (R461, R470), every failure before any effect: the plan to play and its carrier. -/
def prontoParse (c : Config) (text : List Byte) (isRepeat fallback : Bool) :
    Except Cause (List Nat × Nat) :=
  match fieldWords (fieldsFrom text []) with
  | some (marker :: n :: once :: rpt :: body) =>
    if marker ≠ 0 ∨ n = 0 ∨ body.length ≠ 2 * (once + rpt) ∨ prontoKhz c n = 0 then
      .error .malformedProntoInput
    else
      match prontoSelect (body.take (2 * once)) (body.drop (2 * once)) isRepeat fallback with
      | .error e => .error e
      | .ok seq =>
        if c.txCapacity < seq.length then .error .malformedProntoInput
        else .ok (seq.map (prontoUs c n), prontoKhz c n)
  | _ => .error .malformedProntoInput

/-- SEND.PRONTO (R470): a rejected text changes nothing but the two status bits. -/
def execSendPronto (s : State) : Host.Outcome State Fault Refusal :=
  if s.prontoLegal then
    match prontoParse s.cfg s.pronText s.repeatFlag s.fallbackFlag with
    | .ok pk => .next ((s.sendRaw pk.1 pk.2).answer true)
    | .error _ => .next (s.answer false)
  else .next s.illegal

end Sys2Proof.Machine
end

