-- ==== Sys2Proof/Machine/Dispatch.lean ====
section
/-! DEFINITION. The dispatch of commands to their meanings, one arm per constructor of Instr. -/

namespace Sys2Proof.Machine

def exec (i : Instr) (s : State) : Host.Outcome State Fault Refusal :=
  match i with
  | .nop => Sys2Proof.Machine.execNop s
  | .rxEnable => Sys2Proof.Machine.execRxEnable s
  | .rxDisable => Sys2Proof.Machine.execRxDisable s
  | .rxResume => Sys2Proof.Machine.execRxResume s
  | .rxIsIdle => Sys2Proof.Machine.execRxIsIdle s
  | .rxDecode => Sys2Proof.Machine.execRxDecode s
  | .rxDecodeCopy => Sys2Proof.Machine.execRxDecodeCopy s
  | .availableHash => Sys2Proof.Machine.execAvailableHash s
  | .availableRc5 => Sys2Proof.Machine.execAvailableRc5 s
  | .availableRc6 => Sys2Proof.Machine.execAvailableRc6 s
  | .availableNec => Sys2Proof.Machine.execAvailableNec s
  | .availableSony => Sys2Proof.Machine.execAvailableSony s
  | .availablePanasonic => Sys2Proof.Machine.execAvailablePanasonic s
  | .availableJvc => Sys2Proof.Machine.execAvailableJvc s
  | .availableSamsung => Sys2Proof.Machine.execAvailableSamsung s
  | .availableWhynter => Sys2Proof.Machine.execAvailableWhynter s
  | .availableAiwa => Sys2Proof.Machine.execAvailableAiwa s
  | .availableLg => Sys2Proof.Machine.execAvailableLg s
  | .availableSanyo => Sys2Proof.Machine.execAvailableSanyo s
  | .availableMitsubishi => Sys2Proof.Machine.execAvailableMitsubishi s
  | .availableDenon => Sys2Proof.Machine.execAvailableDenon s
  | .sendRaw => Sys2Proof.Machine.execSendRaw s
  | .sendRc5 => Sys2Proof.Machine.execSendRc5 s
  | .sendRc6 => Sys2Proof.Machine.execSendRc6 s
  | .sendNec => Sys2Proof.Machine.execSendNec s
  | .sendSony => Sys2Proof.Machine.execSendSony s
  | .sendPanasonic => Sys2Proof.Machine.execSendPanasonic s
  | .sendJvc => Sys2Proof.Machine.execSendJvc s
  | .sendSamsung => Sys2Proof.Machine.execSendSamsung s
  | .sendWhynter => Sys2Proof.Machine.execSendWhynter s
  | .sendAiwa => Sys2Proof.Machine.execSendAiwa s
  | .sendLg => Sys2Proof.Machine.execSendLg s
  | .sendDenon => Sys2Proof.Machine.execSendDenon s
  | .sendDish => Sys2Proof.Machine.execSendDish s
  | .sendSharp => Sys2Proof.Machine.execSendSharp s
  | .sendPronto => Sys2Proof.Machine.execSendPronto s

end Sys2Proof.Machine
end

