-- ==== Sys2Proof/Machine/Step.lean ====
section
/-! DEFINITION. One step of the machine: the next event of the outside world, taken whole (R7, R140). -/

namespace Sys2Proof.Machine

/-- A command: its meaning if the decoder knows the byte, the illegal command if not (R178). -/
def stepCommand (bytes : List Byte) (s : State) : Host.Outcome State Fault Refusal :=
  match decode bytes with
  | .ok ir => exec ir.1 s
  | .error _ => .next s.illegal

/-- One step. The next event leaves the list of events to come and is taken: a write of CMD runs the
command, any other event is applied. Where no event is to come the block waits, unchanged (R550, R571)
(DESIGN CHOICE, log entry 2). -/
def step (s : State) : Host.Outcome State Fault Refusal :=
  match s.inputs with
  | [] => .next s
  | e :: rest =>
    match fetchCommand e with
    | some bytes => stepCommand bytes { s with inputs := rest }
    | none => .next (applyInput { s with inputs := rest } e)

/-- The machine with the command byte `w` as the next event: the HOST's write of CMD (DESIGN CHOICE, log
entry 3). -/
def State.withFetchWord (s : State) (nbits w : Nat) : State :=
  { s with inputs := commandWrite (BitVec.ofNat 8 (w % 2 ^ nbits)) :: s.inputs }

end Sys2Proof.Machine
end

