-- ==== Sys2Proof/WellFormed.lean ====
section
/-! DEFINITION. What must hold of a term before the rules make sense of it. A command carries no operand
field, so every command is well formed; the checks are those of R9, R12, R18, R188, R193
and R442 on a configuration (and those the widths of the state ask for: DEDUCED, log entry 16). -/

namespace Sys2Proof

/-- Every command is well formed: its byte has no operand field (R170, R175), and the range of an ARG
register is a check the command itself makes (R178). -/
abbrev Instr.WellFormed (_ : Instr) : Prop := True

/-- `USEC_PER_TICK ≥ 1` (R9). -/
def Config.wfTick (c : Config) : Bool := 1 ≤ c.usecPerTick

/-- `2 ≤ RAW_CAPACITY ≤ 65535` (R9). -/
def Config.wfCapacity (c : Config) : Bool := 2 ≤ c.rawCapacity && c.rawCapacity ≤ 65535

/-- `1 ≤ IDLE_GAP_TICKS < SAMPLE_MAX` (R9). -/
def Config.wfIdleGap (c : Config) : Bool := 1 ≤ c.idleGapTicks && c.idleGapTicks < c.sampleMax

/-- `SAMPLE_MAX` fits the 16 bits of a sample (R50). -/
def Config.wfSample (c : Config) : Bool := c.sampleMax ≤ 65535

/-- `0 ≤ TOL_PCT < 100` (R9). -/
def Config.wfTolerance (c : Config) : Bool := c.tolPct < 100

/-- `SAMPLE_MAX × USEC_PER_TICK × 100 < 2^63` (R9). -/
def Config.wfProduct (c : Config) : Bool := c.sampleMax * c.usecPerTick * 100 < 2 ^ 63

/-- No decoder of DISH or SHARP is enabled or tried (R12). -/
def Config.wfDecoders (c : Config) : Bool :=
  c.enableDec.all Protocol.hasDecoder && c.decodeOrder.all Protocol.hasDecoder

/-- No encoder of SANYO or MITSUBISHI is enabled (R12). -/
def Config.wfEncoders (c : Config) : Bool := c.enableEnc.all Protocol.hasEncoder

/-- A pulse descriptor has the tolerance and the bit order R188 states, its cell counts are in order, and
what its result carries fits: an address of at most 16 bits and a value of at most 32 (R60, R63). R9 bounds no
duration of a descriptor and this check adds no bound: one outside the `0 .. 2^32 - 1` of R401 is admitted and
played uncut (DESIGN CHOICE, log entry 25). -/
def FrameDescriptor.wf (tolPct : Nat) (d : FrameDescriptor) : Bool :=
  d.tol == tolPct && d.msbFirst && d.nmin ≤ d.nmax && d.addrBits ≤ 16 && d.addrBits ≤ d.nmin
    && d.nmax ≤ d.addrBits + 32

/-- A biphase descriptor has the tolerance and the bit order R188 states and no address (R192), accepts 1 to 32
data bits at most, and its decoder looks only at captures that hold the header it reads (R383, R385). Its
durations are as unbounded as those of a pulse descriptor (R9, R401; DESIGN CHOICE, log entry 25). -/
def BiphaseDescriptor.wf (tolPct : Nat) (d : BiphaseDescriptor) : Bool :=
  d.tol == tolPct && d.msbFirst && d.addrBits == 0 && 1 ≤ d.nmin && d.nmin ≤ d.nmax && d.nmax ≤ 32
    && 4 ≤ d.minRawlen

/-- The result of a decoder without an address field carries all its cells in `value` (R192). -/
def FrameDescriptor.valueOnly (d : FrameDescriptor) : Bool := d.addrBits == 0

/-- The AIWA frame has the 42 cells its layout needs (R193); its frame word is checked and cut by the
decoder, so the bound on the value is the layout's. -/
def FrameDescriptor.aiwaShape (tolPct : Nat) (d : FrameDescriptor) : Bool :=
  d.tol == tolPct && d.msbFirst && d.nmin == 42 && d.nmax == 42

/-- Every row of the descriptor table is well formed (R188, R190, R192). -/
def DescriptorTable.wf (tolPct : Nat) (t : DescriptorTable) : Bool :=
  t.rc5.wf tolPct && t.rc6.wf tolPct && t.aiwa.aiwaShape tolPct
    && [t.nec, t.sony, t.panasonic, t.jvc, t.samsung, t.whynter, t.lg, t.sanyo, t.mitsubishi, t.denon,
        t.dish, t.sharp].all (FrameDescriptor.wf tolPct)
    && [t.nec, t.sony, t.jvc, t.samsung, t.whynter, t.lg, t.sanyo, t.mitsubishi].all
        FrameDescriptor.valueOnly

/-- `AIWA_PRE` is a 26-bit value (R193). -/
def Config.wfAiwaPre (c : Config) : Bool := c.aiwaPre < 2 ^ 26

/-- One Pronto unit is not 0, so that the divisor of R467 is not (R18). -/
def Config.wfProntoUnit (c : Config) : Bool := 1 ≤ c.prontoUnitPs

/-- Every encoder has a carrier of at least 1 kHz, as SENDRAW needs (R442). -/
def DescriptorTable.wfCarriers (t : DescriptorTable) : Bool :=
  1 ≤ t.rc5.khz && 1 ≤ t.rc6.khz
    && [t.nec, t.sony, t.panasonic, t.jvc, t.samsung, t.whynter, t.aiwa, t.lg, t.denon, t.dish,
        t.sharp].all fun d => 1 ≤ d.khz

/-- Every constraint on the parameters: R9, R12, R18, R188, R193 and R442. -/
def Config.wf (c : Config) : Bool :=
  c.wfTick && c.wfCapacity && c.wfIdleGap && c.wfSample && c.wfTolerance && c.wfProduct && c.wfDecoders
    && c.wfEncoders && c.wfAiwaPre && c.wfProntoUnit && c.table.wf c.tolPct && c.table.wfCarriers

end Sys2Proof
end

