-- ==== Sys2Proof/Safety.lean ====
section
/-! DEFINITION. The terms claims are made in: the invariant of the block (R59, R63, R502), the ideal capture of
a plan (95_test_vectors.md section 2), the ticks of a signal (R276), what it means that a capture stays inside a plan's tolerance bands
(R246), the half cells of a biphase plan (R195), the codes the hash folds (R481), and the texts that spell a list of
Pronto words (R463). -/

namespace Sys2Proof.Machine

/-- The invariants of a DecodeResult (R63): at most 32 bits, none under UNKNOWN or UNUSED, and an address of 0
but for the protocols that have an address field (R192). -/
def DecodeResult.Ok (r : DecodeResult) : Prop :=
  r.bits.toNat ≤ 32 ∧ (r.tag = tagUnknown ∨ r.tag = tagUnused → r.bits = 0)
    ∧ (r.tag ≠ Protocol.panasonic.tag → r.tag ≠ Protocol.denon.tag → r.address = 0)

/-- Cells `0 .. n-1` of a memory hold something. -/
def Memory.Holds {w : Nat} (m : Memory w) (n : Nat) : Prop := ∀ i < n, (m.find i).isSome = true

/-- A memory in canonical form with no cell past the end of its space (R121, R123). -/
def Memory.Fits {w : Nat} (m : Memory w) (cells : Nat) : Prop := m.wf = true ∧ m.below cells = true

/-- What holds after every step (R59, R63, R502), for a configuration that meets its constraints (R9). -/
structure State.Inv (s : State) : Prop where
  cfg : s.cfg.wf = true
  raw : s.raw.Fits s.cfg.rawCapacity
  snapraw : s.snapraw.Fits s.cfg.rawCapacity
  txbuf : s.txbuf.Fits s.cfg.txCapacity
  ptxt : s.ptxt.Fits s.cfg.ptxtCapacity
  rawlen : s.rawlen.toNat ≤ s.cfg.rawCapacity
  idle : s.rcvstate = .idle → s.rawlen = 0 ∧ s.overflow = false
  busy : s.rcvstate ≠ .idle → 1 ≤ s.rawlen.toNat
  overflow : s.overflow = true → s.rcvstate = .ready ∧ s.rawlen.toNat = s.cfg.rawCapacity
  written : s.raw.Holds s.rawlen.toNat
  samples : ∀ i < s.rawlen.toNat, 1 ≤ (s.rawCell i).toNat ∧ (s.rawCell i).toNat ≤ s.cfg.sampleMax
  counter : s.counter.toNat ≤ s.cfg.sampleMax
  res : s.res.Ok
  snap : s.snap.Ok
  snapLen : s.snap.rawlen.toNat ≤ s.cfg.rawCapacity
  snapWritten : s.snapraw.Holds s.snap.rawlen.toNat
  status : ¬ (s.statusOk = true ∧ s.statusCmderr = true)

/-- The three roundings of an ideal capture, to 50 µs ticks. -/
inductive Rounding where
  | nearest
  | down
  | up
deriving DecidableEq, Repr

/-- A duration in microseconds as a count of 50 µs ticks. -/
def Rounding.ticks : Rounding → Nat → Nat
  | .nearest, d => (d + 25) / 50
  | .down, d => d / 50
  | .up, d => (d + 49) / 50

/-- The ideal capture of a plan after the pre-roll gap `g`. -/
def idealCapture (q : Rounding) (g : Nat) (plan : List Nat) : List Nat := g :: plan.map q.ticks

/-- The ticks of a line that holds a level for so many ticks, then the other level, and so on, from the given
level on (R276). -/
def levelTicks : Level → List Nat → List Input
  | _, [] => []
  | .mark, n :: ns => List.replicate n (.tick .mark) ++ levelTicks .space ns
  | .space, n :: ns => List.replicate n (.tick .space) ++ levelTicks .mark ns

/-- Entry by entry, the capture lies in the tolerance band of the plan's nominal durations, marks and spaces
alternating from `l` on (R244, R246). -/
def Within (c : Config) : Level → List Nat → List Nat → Prop
  | _, [], [] => True
  | .mark, d :: plan, m :: es => matchMark c m d = true ∧ Within c .space plan es
  | .space, d :: plan, m :: es => matchSpace c m d = true ∧ Within c .mark plan es
  | _, _, _ => False

/-- The comparison codes of a capture, entry 0 left out (R481). -/
def hashCodes (c : Config) (raw : List Nat) : List Word :=
  List.zipWith (hashCompare c) (raw.drop 1) (raw.drop 2)

/-- The half cells of a plan, marks and spaces alternating from the given level on: as many half cells of length
`t` as an element is long (R195). -/
def planHalves (t : Nat) : Level → List Nat → List Level
  | _, [] => []
  | .mark, us :: plan => List.replicate (us / t) .mark ++ planHalves t .space plan
  | .space, us :: plan => List.replicate (us / t) .space ++ planHalves t .mark plan

/-- The characters of a hexadecimal digit: one of `0` to `9`, or one of `A` to `F` in either case (R463). -/
def digitChars (n : Nat) : List Byte :=
  if n < 10 then [BitVec.ofNat 8 (0x30 + n)]
  else [BitVec.ofNat 8 (0x41 + (n - 10)), BitVec.ofNat 8 (0x61 + (n - 10))]

/-- A field spells a word: four digits, the most significant first (R463). -/
def SpellsField (f : List Byte) (w : Nat) : Prop :=
  ∃ a b c d : Nat, a < 16 ∧ b < 16 ∧ c < 16 ∧ d < 16 ∧ w = 4096 * a + 256 * b + 16 * c + d
    ∧ ∃ ca ∈ digitChars a, ∃ cb ∈ digitChars b, ∃ cc ∈ digitChars c, ∃ cd ∈ digitChars d, f = [ca, cb, cc, cd]

/-- A text spells a list of words: fields with one space or more between them, and any number of spaces before
the first and after the last (R463). -/
inductive SpellsWords : List Byte → List Nat → Prop
  | spaces (k : Nat) : SpellsWords (List.replicate k prontoSpace) []
  | last (k : Nat) {f : List Byte} {w : Nat} (h : SpellsField f w) :
      SpellsWords (List.replicate k prontoSpace ++ f) [w]
  | field (k : Nat) {f text : List Byte} {w : Nat} {ws : List Nat} (h : SpellsField f w)
      (ht : SpellsWords text ws) :
      SpellsWords (List.replicate k prontoSpace ++ (f ++ prontoSpace :: text)) (w :: ws)

/-- `f` is a field of a text: a maximal run of cells other than a space, and not empty (R463). -/
def FieldOf (f text : List Byte) : Prop :=
  f ≠ [] ∧ prontoSpace ∉ f ∧ ∃ before after : List Byte, text = before ++ (f ++ after)
    ∧ (∀ ch ∈ before.getLast?, ch = prontoSpace) ∧ ∀ ch ∈ after.head?, ch = prontoSpace

end Sys2Proof.Machine
end

