-- ==== Sys2Proof/Certificates/Slice0/Obligations.lean ====
section
/-! DEFINITION. The statements about the block, for the provers. Each docstring names the rules it rests on;
a statement never rests on the value of a free constant of Config. The list `inputs` of the events still to
come, and `hostReads`, `draws` and `epoch`, are the model's own (log entries 2 to 6): a statement about a step is
about the event that comes next in that list. -/

open Sys2Proof Sys2Proof.Machine

-- Encoding and the step

/-- R170 to R173, R178: the bytes that decode are exactly the encodings of the 36 commands, each one byte,
and decoding hands back what follows. -/
def Obligations.DecodeEncodeAgree : Prop :=
  ∀ (bytes : List Byte) (i : Instr) (rest : List Byte),
    decode bytes = .ok (i, rest) ↔ bytes = encode i ++ rest

/-- R170 to R173, R178: command bytes written out from the class tables, one or two of each class, with a byte of a
reserved class. -/
def Obligations.DecodeOfTableBytes : Prop :=
  decode [0x00] = .ok (.nop, []) ∧ decode [0x05] = .ok (.rxDecode, [])
    ∧ decode [0x20] = .ok (.availableHash, []) ∧ decode [0x2D] = .ok (.availableDenon, [])
    ∧ decode [0x43] = .ok (.sendNec, []) ∧ decode [0x4D] = .ok (.sendDenon, [])
    ∧ decode [0x50] = .ok (.sendPronto, []) ∧ decode [0x4B] = .error .noEncoder
    ∧ decode [0x2E] = .error .noDecoder ∧ decode [0x60] = .error .reservedClass

/-- R124, R170: where the next event writes CMD with a value whose low byte decodes to a command, the step is
that command's meaning, the event no longer to come. That events come from a list is the model's choice (log
entry 2). -/
def Obligations.StepRunsDecodedCommand : Prop :=
  ∀ (s : State) (v : Nat) (rest : List Input) (i : Instr),
    s.inputs = .regWrite 0 v :: rest → i.WellFormed → decode [BitVec.ofNat 8 v] = .ok (i, []) →
      step s = exec i { s with inputs := rest }

/-- R178, U8: a reserved or illegal command byte changes nothing but the two status bits. -/
def Obligations.IllegalByteChangesOnlyStatus : Prop :=
  ∀ (s : State) (v : Nat) (rest : List Input), s.inputs = .regWrite 0 v :: rest →
    (0x07 ≤ v % 256 ∧ v % 256 ≤ 0x1F) ∨ (0x2E ≤ v % 256 ∧ v % 256 ≤ 0x3F) ∨ v % 256 = 0x4B
        ∨ v % 256 = 0x4C ∨ 0x51 ≤ v % 256 →
      step s = .next { s with inputs := rest, statusOk := false, statusCmderr := true }

/-- R500, R571, R74: from every state a run of any length goes on, no step ending in a fault or a refusal, and
the parameters stay as they were. That a run with no event left waits in its state is the model's choice (log
entry 2). -/
def Obligations.RunNeverStops : Prop :=
  ∀ (k : Nat) (s : State), ∃ t : State, Host.Core.run Sys2Proof.core k s = .next t ∧ t.cfg = s.cfg

-- The control commands

/-- R275: the byte 0x00 is NOP, which answers OK and changes nothing else. -/
def Obligations.NopAnswersOk : Prop :=
  decode [0x00] = .ok (.nop, [])
  ∧ ∀ s : State, exec .nop s = .next { s with statusOk := true, statusCmderr := false }

/-- R270: the sampler starts from an empty capture, armed; nothing else but the status bits changes. After
reset STATUS is then 0x09. -/
def Obligations.RxEnableRearmsSampler : Prop :=
  decode [0x01] = .ok (.rxEnable, [])
  ∧ (∀ s : State, exec .rxEnable s = .next
    { s with rcvstate := .idle, rawlen := 0, overflow := false, counter := 0, curLevel := .space,
             rxEnable := true, statusOk := true, statusCmderr := false })
  ∧ (∀ t : State, exec .rxEnable State.reset = .next t → t.status = 0x09)

/-- R271: only `rx_enable` and the status bits change; STATUS 0x4B becomes 0x43. -/
def Obligations.RxDisableOnlyDisarms : Prop :=
  decode [0x02] = .ok (.rxDisable, [])
  ∧ (∀ s : State, exec .rxDisable s = .next
    { s with rxEnable := false, statusOk := true, statusCmderr := false })
  ∧ (∀ s t : State, s.status = 0x4B → exec .rxDisable s = .next t → t.status = 0x43)

/-- R272: the capture is emptied; `counter`, `cur_level`, `rx_enable` and the RAW cells stay. -/
def Obligations.RxResumeEmptiesCapture : Prop :=
  decode [0x03] = .ok (.rxResume, [])
  ∧ ∀ s : State, exec .rxResume s = .next
    { s with rcvstate := .idle, rawlen := 0, overflow := false, statusOk := true, statusCmderr := false }

/-- R273: OK is whether `rcvstate` is READY, the bit that is live in STATUS, and nothing else changes. -/
def Obligations.RxIsIdleReportsReady : Prop :=
  decode [0x04] = .ok (.rxIsIdle, [])
  ∧ ∀ s : State,
    exec .rxIsIdle s = .next { s with statusOk := decide (s.rcvstate = .ready), statusCmderr := false }
      ∧ s.status.getLsbD 1 = decide (s.rcvstate = .ready)

-- TICK

/-- R263, R269 (a): with `rx_enable` 0 a tick changes nothing at all. -/
def Obligations.TickDisabledChangesNothing : Prop :=
  ∀ (s : State) (level : Level) (rest : List Input), s.inputs = .tick level :: rest →
    s.rxEnable = false → step s = .next { s with inputs := rest }

/-- R263, R264, R57: in IDLE a change to MARK starts a capture: RAW cell 0 is the pre-roll gap, saturated,
every other cell stays, and nothing else changes. -/
def Obligations.TickStartsCapture : Prop :=
  ∀ (s : State) (rest : List Input), s.inputs = .tick .mark :: rest → s.rxEnable = true →
    s.cfg.wf = true → s.rcvstate = .idle → s.curLevel = .space →
      ∃ t : State, step s = .next t
        ∧ (t.rawCell 0).toNat = min (s.counter.toNat + 1) s.cfg.sampleMax
        ∧ (∀ j, j ≠ 0 → t.rawCell j = s.rawCell j)
        ∧ t = { s with inputs := rest, raw := t.raw, rawlen := 1, rcvstate := .active, counter := 0,
                       curLevel := .mark }

/-- R263, R264, R265: in ACTIVE a change of level pushes the saturated count to the cell at `rawlen`, and every
other cell and everything else stays; with the buffer full nothing is stored, `overflow` is set and READY is
entered. -/
def Obligations.TickPushesSampleOrOverflows : Prop :=
  ∀ (s : State) (level : Level) (rest : List Input), s.inputs = .tick level :: rest →
    s.rxEnable = true → s.cfg.wf = true → s.rcvstate = .active → level ≠ s.curLevel →
      (s.rawlen.toNat < s.cfg.rawCapacity →
        ∃ t : State, step s = .next t
          ∧ (t.rawCell s.rawlen.toNat).toNat = min (s.counter.toNat + 1) s.cfg.sampleMax
          ∧ (∀ j, j ≠ s.rawlen.toNat → t.rawCell j = s.rawCell j)
          ∧ t.rawlen.toNat = s.rawlen.toNat + 1
          ∧ t = { s with inputs := rest, raw := t.raw, rawlen := t.rawlen, counter := 0,
                         curLevel := level })
      ∧ (s.rawlen.toNat = s.cfg.rawCapacity →
        step s = .next
          { s with inputs := rest, overflow := true, rcvstate := .ready, counter := 0, curLevel := level })

/-- R266: in ACTIVE without a change, READY is entered exactly where the level is SPACE and the incremented
counter is above IDLE_GAP_TICKS; only the counter changes besides. A MARK never times out. -/
def Obligations.TickIdleGapEndsCapture : Prop :=
  ∀ (s : State) (level : Level) (rest : List Input), s.inputs = .tick level :: rest →
    s.rxEnable = true → s.cfg.wf = true → s.rcvstate = .active → level = s.curLevel →
      step s = .next
        { s with inputs := rest,
                 counter := BitVec.ofNat 16 (min (s.counter.toNat + 1) s.cfg.sampleMax),
                 rcvstate := if level = .space ∧ s.cfg.idleGapTicks < s.counter.toNat + 1
                   then .ready else .active }

/-- R263, R267, R269 (d), R143: in READY, and in IDLE at a tick that is no change to MARK, a tick only runs the
edge detector: the capture does not change. -/
def Obligations.TickOutsideActiveTracksEdges : Prop :=
  ∀ (s : State) (level : Level) (rest : List Input), s.inputs = .tick level :: rest →
    s.rxEnable = true →
    (s.rcvstate = .ready ∨ (s.rcvstate = .idle ∧ ¬ (level = .mark ∧ s.curLevel = .space))) →
      step s = .next
        { s with inputs := rest, curLevel := level,
                 counter := if level = s.curLevel
                   then BitVec.ofNat 16 (min (s.counter.toNat + 1) s.cfg.sampleMax) else 0 }

/-- R262 to R266, R57, R566: a signal given tick by tick to an armed sampler that is IDLE on a quiet line, every
duration at least one tick and every space inside it at most IDLE_GAP_TICKS, then silence up to the tick that
exceeds the threshold, is captured whole: READY, entry 0 the pre-roll gap and after it the durations of the
signal, and nothing but the sampler's state has changed. That the ticks stand in a list is the model's choice
(log entry 2). -/
def Obligations.CleanSignalIsCapturedWhole : Prop :=
  ∀ (s : State) (g : Nat) (es : List Nat) (rest : List Input),
    s.cfg.wf = true → s.rxEnable = true → s.rcvstate = .idle → s.curLevel = .space →
    es.length % 2 = 1 → es.length < s.cfg.rawCapacity →
    (∀ m ∈ es, 1 ≤ m ∧ m ≤ s.cfg.sampleMax) →
    (∀ i m, i % 2 = 1 → es[i]? = some m → m ≤ s.cfg.idleGapTicks) →
    s.inputs = levelTicks .space [g] ++ (levelTicks .mark es
      ++ (levelTicks .space [s.cfg.idleGapTicks + 2] ++ rest)) →
      ∃ t : State,
        Host.Core.run Sys2Proof.core (g + (es.sum + (s.cfg.idleGapTicks + 2))) s = .next t
          ∧ t.capture = min (s.counter.toNat + g + 1) s.cfg.sampleMax :: es
          ∧ t = { s with inputs := rest, raw := t.raw, rawlen := t.rawlen, rcvstate := .ready,
                         counter := BitVec.ofNat 16 (s.cfg.idleGapTicks + 1) }

-- Invariants and rules about every step

/-- R59, R63, R502, under the constraints of R9: every step keeps the invariant of the block. -/
def Obligations.StepKeepsBlockInvariant : Prop :=
  ∀ s t : State, s.Inv → step s = .next t → t.Inv

/-- R59, R63, R100: the reset state meets the invariant. -/
def Obligations.ResetMeetsBlockInvariant : Prop := State.reset.Inv

/-- R261: nothing leaves READY but RX_RESUME, RX_ENABLE and reset. -/
def Obligations.OnlyHostLeavesReady : Prop :=
  ∀ s t : State, s.rcvstate = .ready → step s = .next t → t.rcvstate ≠ .ready →
    t.rcvstate = .idle
      ∧ (s.inputs.head? = some .rst
        ∨ ∃ v, s.inputs.head? = some (.regWrite 0 v) ∧ (v % 256 = 0x01 ∨ v % 256 = 0x03))

/-- R271, R440: `rx_enable` is set by RX_ENABLE alone. -/
def Obligations.OnlyRxEnableArms : Prop :=
  ∀ s t : State, s.rxEnable = false → step s = .next t → t.rxEnable = true →
    ∃ v, s.inputs.head? = some (.regWrite 0 v) ∧ v % 256 = 0x01

/-- R58, R66, R76, R402: a command other than RX_ENABLE and RX_RESUME leaves the sampler's state alone, and no
command at all writes a RAW cell, an operand register, TXBUF or PTXT. -/
def Obligations.CommandsLeaveCaptureAndOperandsAlone : Prop :=
  ∀ (i : Instr) (s t : State), exec i s = .next t →
    (∀ j, t.rawCell j = s.rawCell j)
      ∧ (i ≠ .rxEnable → i ≠ .rxResume →
          t.rcvstate = s.rcvstate ∧ t.rawlen = s.rawlen ∧ t.overflow = s.overflow
            ∧ t.counter = s.counter ∧ t.curLevel = s.curLevel)
      ∧ t.argValue = s.argValue ∧ t.argAddr = s.argAddr ∧ t.argNbits = s.argNbits
      ∧ t.argFlags = s.argFlags ∧ t.argKhz = s.argKhz ∧ t.argLen = s.argLen
      ∧ (∀ j, t.txCell j = s.txCell j) ∧ (∀ j, t.ptCell j = s.ptCell j)

/-- R304, R306: `res` is written by RX_DECODE alone, `snap` and SNAPRAW by RX_DECODE_COPY alone, `last_tag`
by the two, and each only in READY; reset apart. -/
def Obligations.ResultsWrittenOnlyByDecodes : Prop :=
  ∀ s t : State, step s = .next t → s.inputs.head? ≠ some .rst →
    (t.res ≠ s.res →
        s.rcvstate = .ready ∧ ∃ v, s.inputs.head? = some (.regWrite 0 v) ∧ v % 256 = 0x05)
      ∧ ((t.snap ≠ s.snap ∨ ∃ j, t.snapCell j ≠ s.snapCell j) →
        s.rcvstate = .ready ∧ ∃ v, s.inputs.head? = some (.regWrite 0 v) ∧ v % 256 = 0x06)
      ∧ (t.lastTag ≠ s.lastTag →
        s.rcvstate = .ready
          ∧ ∃ v, s.inputs.head? = some (.regWrite 0 v) ∧ (v % 256 = 0x05 ∨ v % 256 = 0x06))

/-- R75, R440, R442, R443, R551: no step but reset removes or changes a segment of `txout`, and only a SEND byte
adds any, after which `rx_enable` is 0. -/
def Obligations.TxoutOnlyGrows : Prop :=
  ∀ s t : State, step s = .next t → s.inputs.head? ≠ some .rst →
    ∃ more : List Segment, t.txout = s.txout ++ more
      ∧ (more ≠ [] → t.rxEnable = false ∧ ∃ v, s.inputs.head? = some (.regWrite 0 v)
          ∧ 0x40 ≤ v % 256 ∧ v % 256 ≤ 0x50)

/-- R67, R502: nothing but a command, and reset, writes OK and CMD_ERR, and after a command the two are never
both 1. -/
def Obligations.OnlyCommandsWriteStatusBits : Prop :=
  (∀ s t : State, step s = .next t → s.inputs.head? ≠ some .rst →
    (∀ v, s.inputs.head? ≠ some (.regWrite 0 v)) →
      t.statusOk = s.statusOk ∧ t.statusCmderr = s.statusCmderr)
  ∧ ∀ (i : Instr) (s t : State), exec i s = .next t → ¬ (t.statusOk = true ∧ t.statusCmderr = true)

-- Registers, memories, reset

/-- R67, R55: the bits of STATUS. -/
def Obligations.StatusByteFields : Prop :=
  ∀ s : State,
    s.status.getLsbD 0 = s.statusOk
      ∧ s.status.getLsbD 1 = decide (s.rcvstate = .ready)
      ∧ s.status.getLsbD 2 = s.overflow
      ∧ s.status.getLsbD 3 = s.rxEnable
      ∧ s.status.getLsbD 4 = s.statusCmderr
      ∧ (s.status.extractLsb' 5 2).toNat
          = (match s.rcvstate with | .idle => 0 | .active => 1 | .ready => 2)
      ∧ s.status.getLsbD 7 = false

/-- R80, R124: an operand register written and then read gives the value modulo its width (ARG_FLAGS keeps
its two flags), and nothing else of the block changes. -/
def Obligations.OperandRegisterWriteRead : Prop :=
  ∀ (s : State) (v : Nat) (rest : List Input) (nw : Nat × Nat),
    nw ∈ [(0x02, 32), (0x03, 16), (0x04, 8), (0x05, 2), (0x06, 16), (0x07, 16)] →
    s.inputs = .regWrite nw.1 v :: .regRead nw.1 :: rest →
      ∃ t : State, Host.Core.run Sys2Proof.core 2 s = .next t
        ∧ t.hostReads = s.hostReads ++ [BitVec.ofNat 32 (v % 2 ^ nw.2)]
        ∧ t = { s with inputs := rest, hostReads := t.hostReads, argValue := t.argValue,
                       argAddr := t.argAddr, argNbits := t.argNbits, argFlags := t.argFlags,
                       argKhz := t.argKhz, argLen := t.argLen }
        ∧ (nw.1 ≠ 0x02 → t.argValue = s.argValue) ∧ (nw.1 ≠ 0x03 → t.argAddr = s.argAddr)
        ∧ (nw.1 ≠ 0x04 → t.argNbits = s.argNbits) ∧ (nw.1 ≠ 0x05 → t.argFlags = s.argFlags)
        ∧ (nw.1 ≠ 0x06 → t.argKhz = s.argKhz) ∧ (nw.1 ≠ 0x07 → t.argLen = s.argLen)

/-- R80, R54, R123: what a read of each result register returns, and of a register that is not listed or is CMD:
0; a write of a register that is read-only or not listed is ignored. -/
def Obligations.ResultRegistersRead : Prop :=
  ∀ (s : State) (n v : Nat) (x : Word) (rest : List Input),
    (s.inputs = .regRead n :: rest →
      (n, x) ∈
        [ (0x10, s.res.tag.setWidth 32), (0x11, s.res.value), (0x12, s.res.address.setWidth 32),
          (0x13, s.res.bits.setWidth 32), (0x14, s.res.rawlen.setWidth 32),
          (0x15, if s.res.overflow then 1 else 0),
          (0x18, s.snap.tag.setWidth 32), (0x19, s.snap.value), (0x1A, s.snap.address.setWidth 32),
          (0x1B, s.snap.bits.setWidth 32), (0x1C, s.snap.rawlen.setWidth 32),
          (0x1D, if s.snap.overflow then 1 else 0), (0x01, s.status.setWidth 32) ]
      ∨ (x = 0 ∧ (n = 0 ∨ (0x09 ≤ n ∧ n ≤ 0x0F) ∨ n = 0x16 ∨ n = 0x17 ∨ 0x1E ≤ n)) →
        step s = .next { s with inputs := rest, hostReads := s.hostReads ++ [x] })
    ∧ (n = 0x01 ∨ 0x08 ≤ n → s.inputs = .regWrite n v :: rest → step s = .next { s with inputs := rest })

/-- R123, R124: a write of a TXBUF or PTXT cell below the end of its space stores the value modulo the cell's
width in that cell alone; past the end, and into RAW and SNAPRAW, a write has no effect. -/
def Obligations.CellWriteStoresOneCell : Prop :=
  ∀ (s : State) (sp : Space) (i v : Nat) (rest : List Input), s.inputs = .memWrite sp i v :: rest →
    (sp = .txbuf → i < s.cfg.txCapacity → ∃ t : State, step s = .next t
        ∧ t = { s with inputs := rest, txbuf := t.txbuf } ∧ (t.txCell i).toNat = v % 2 ^ 32
        ∧ ∀ j, j ≠ i → t.txCell j = s.txCell j)
      ∧ (sp = .ptxt → i < s.cfg.ptxtCapacity → ∃ t : State, step s = .next t
        ∧ t = { s with inputs := rest, ptxt := t.ptxt } ∧ (t.ptCell i).toNat = v % 2 ^ 8
        ∧ ∀ j, j ≠ i → t.ptCell j = s.ptCell j)
      ∧ (sp = .raw ∨ sp = .snapraw ∨ s.cells sp ≤ i → step s = .next { s with inputs := rest })

/-- R121, R123, R124, R141, R143: in READY a read of a RAW cell below `rawlen` is exact, and so is RAWLEN; a read
of a SNAPRAW cell below `snap.rawlen`, and of any TXBUF or PTXT cell, is exact in every state; past the end of any
space a read gives 0. -/
def Obligations.CellReadsExact : Prop :=
  ∀ (s : State) (sp : Space) (i : Nat) (rest : List Input),
    (s.inputs = .memRead .raw i :: rest → s.rcvstate = .ready → i < s.rawlen.toNat →
        i < s.cfg.rawCapacity →
        step s = .next
          { s with inputs := rest, hostReads := s.hostReads ++ [(s.rawCell i).setWidth 32] })
      ∧ (s.inputs = .regRead 0x08 :: rest → s.rcvstate = .ready →
        step s = .next { s with inputs := rest, hostReads := s.hostReads ++ [s.rawlen.setWidth 32] })
      ∧ (s.inputs = .memRead .snapraw i :: rest → i < s.snap.rawlen.toNat → i < s.cfg.rawCapacity →
        step s = .next
          { s with inputs := rest, hostReads := s.hostReads ++ [(s.snapCell i).setWidth 32] })
      ∧ (s.inputs = .memRead .txbuf i :: rest → i < s.cfg.txCapacity →
        step s = .next { s with inputs := rest, hostReads := s.hostReads ++ [s.txCell i] })
      ∧ (s.inputs = .memRead .ptxt i :: rest → i < s.cfg.ptxtCapacity →
        step s = .next
          { s with inputs := rest, hostReads := s.hostReads ++ [(s.ptCell i).setWidth 32] })
      ∧ (s.inputs = .memRead sp i :: rest → s.cells sp ≤ i →
        step s = .next { s with inputs := rest, hostReads := s.hostReads ++ [0] })

/-- R127, R67: no read of the HOST has a side effect on the block: it returns one value, whatever the state,
and only the model's own record of reads and draws changes (log entries 4 and 5). -/
def Obligations.HostReadsHaveNoSideEffect : Prop :=
  ∀ (s : State) (e : Input) (rest : List Input), s.inputs = e :: rest →
    ((∃ n, e = .regRead n) ∨ ∃ sp i, e = .memRead sp i) →
      ∃ (x : Word) (d : Nat), s.draws ≤ d ∧ d ≤ s.draws + 1 ∧
        step s = .next { s with inputs := rest, hostReads := s.hostReads ++ [x], draws := d }

/-- R550, R552, R100: after `rst` every element of the block has its reset value, the parameters stay, and
the cells hold no value that was written. What stays of the model's own fields is the model's choice (log entry
8). -/
def Obligations.RstRestoresResetState : Prop :=
  ∀ (s : State) (rest : List Input), s.inputs = .rst :: rest →
    step s = .next
      { State.reset with cfg := s.cfg, inputs := rest, hostReads := s.hostReads, draws := s.draws,
                         epoch := s.epoch + 1 }

/-- R100: the reset values, and STATUS 0x00. -/
def Obligations.ResetValuesOfBlock : Prop :=
  let s := State.reset
  s.rxEnable = false ∧ s.rcvstate = .idle ∧ s.curLevel = .space ∧ s.counter = 0 ∧ s.rawlen = 0
    ∧ s.overflow = false
    ∧ (∀ i, s.raw.find i = none ∧ s.snapraw.find i = none ∧ s.txbuf.find i = none
        ∧ s.ptxt.find i = none)
    ∧ s.res = ⟨0, 0, 0, 0, 0, false⟩ ∧ s.snap = ⟨0, 0, 0, 0, 0, false⟩ ∧ s.lastTag = 0
    ∧ s.argValue = 0 ∧ s.argAddr = 0 ∧ s.argNbits = 0 ∧ s.argFlags = 0 ∧ s.argKhz = 0 ∧ s.argLen = 0
    ∧ s.statusOk = false ∧ s.statusCmderr = false ∧ s.txout = [] ∧ s.irOut = .space ∧ s.status = 0x00

-- Matcher and decoders

/-- R241 to R243, R245, R247: the inequalities of the matcher, both bounds inclusive, for every configuration; the
set of tick counts that match is an interval; under the default parameters the intervals of marks and of spaces
for every nominal duration of R245; and the eight worked examples. -/
def Obligations.MatcherBandsAndExamples : Prop :=
  (∀ (c : Config) (e : Int) (d tol : Nat),
      matchUs c e d tol = true ↔
        100 * e ≥ (d : Int) * (100 - tol) - 100 * c.guardUs
          ∧ 100 * e ≤ (d : Int) * (100 + tol) + 100 * c.guardUs)
    ∧ (∀ (c : Config) (m d : Nat),
      matchMark c m d = matchUs c ((m : Int) * c.usecPerTick + c.markCompUs) d c.tolPct
        ∧ matchSpace c m d = matchUs c ((m : Int) * c.usecPerTick - c.markCompUs) d c.tolPct)
    ∧ (∀ (c : Config) (d m m' m'' : Nat), m ≤ m' → m' ≤ m'' →
      (matchMark c m d = true → matchMark c m'' d = true → matchMark c m' d = true)
        ∧ (matchSpace c m d = true → matchSpace c m'' d = true → matchSpace c m' d = true))
    ∧ (∀ row ∈
      [ (245, 5, 9, 1, 5), (300, 6, 10, 2, 6), (350, 7, 11, 3, 7), (400, 7, 13, 3, 9), (444, 8, 14, 4, 10),
        (500, 9, 15, 5, 11), (502, 9, 15, 5, 11), (550, 10, 16, 6, 12), (560, 10, 17, 6, 13),
        (600, 10, 18, 6, 14), (700, 12, 20, 8, 16), (750, 13, 21, 9, 17), (795, 13, 22, 9, 18),
        (888, 15, 25, 11, 21), (889, 15, 25, 11, 21), (950, 16, 26, 12, 22), (1200, 19, 33, 15, 29),
        (1244, 20, 34, 16, 30), (1332, 21, 36, 17, 32), (1600, 25, 43, 21, 39), (1690, 27, 45, 23, 41),
        (1700, 27, 45, 23, 41), (1750, 28, 46, 24, 42), (1778, 28, 47, 24, 43), (1800, 28, 48, 24, 44),
        (1805, 29, 48, 25, 44), (1950, 31, 51, 27, 47), (2150, 34, 56, 30, 52), (2250, 35, 59, 31, 55),
        (2400, 37, 63, 33, 59), (2666, 41, 69, 37, 65), (2667, 42, 69, 38, 65), (2800, 43, 73, 39, 69),
        (2850, 44, 74, 40, 70), (3500, 54, 90, 50, 86), (3502, 54, 90, 50, 86), (4000, 61, 103, 57, 99),
        (4500, 69, 115, 65, 111), (5000, 76, 128, 72, 124), (6100, 93, 155, 89, 151),
        (8000, 121, 203, 117, 199), (8800, 133, 223, 129, 219), (9000, 136, 228, 132, 224) ],
      ∀ m : Nat,
        (matchMark defaultConfig m row.1 = true ↔ row.2.1 ≤ m ∧ m ≤ row.2.2.1)
          ∧ (matchSpace defaultConfig m row.1 = true ↔ row.2.2.2.1 ≤ m ∧ m ≤ row.2.2.2.2))
    ∧ matchMark defaultConfig 11 560 = true ∧ matchMark defaultConfig 9 560 = false
    ∧ matchMark defaultConfig 17 560 = true ∧ matchMark defaultConfig 18 560 = false
    ∧ matchSpace defaultConfig 34 1690 = true ∧ matchSpace defaultConfig 13 560 = true
    ∧ matchSpace defaultConfig 14 560 = false ∧ matchMark defaultConfig 0 245 = false

/-- R332, R189: CELLS answers the one solution of the length equation, if it is in `nmin..nmax`, and
NoMatch_Length otherwise. -/
def Obligations.CellCountSolvesLength : Prop :=
  ∀ (d : FrameDescriptor) (rawlen : Nat) (header : Bool),
    (∀ n, cellCount d rawlen header = .ok n ↔
      d.nmin ≤ n ∧ n ≤ d.nmax ∧
        (match d.kind with
          | .distance =>
            rawlen = 1 + (if d.preMark ≠ 0 then 2 else 0)
              + (if header = true ∧ d.hdrMark ≠ 0 then 2 else 0) + 2 * n + 1
          | .width => rawlen + 1 = 1 + (if header = true ∧ d.hdrMark ≠ 0 then 2 else 0) + 2 * n))
      ∧ ∀ e, cellCount d rawlen header = .error e → e = .noMatchLength

/-- R246, R333: a capture that stays inside the tolerance bands of a frame is read as that frame, for every
descriptor whose ONE and ZERO bands are disjoint. -/
def Obligations.FrameWithinToleranceDecodes : Prop :=
  ∀ (c : Config) (d : FrameDescriptor) (f n g : Nat) (header : Bool) (es : List Nat),
    d.nmin ≤ n → n ≤ d.nmax → f < 2 ^ n →
    (d.kind = .distance → ∀ m, matchSpace c m d.zeroSpace = true → matchSpace c m d.oneSpace = false) →
    (d.kind = .width → 1 ≤ n ∧ d.preMark = 0
      ∧ ∀ m, matchMark c m d.zeroMark = true → matchMark c m d.oneMark = false) →
    Within c .mark (encFrame d f n header) es →
      decFrame c d (g :: es) header = .ok (f, n)

/-- R333, R334: what the frame reader accepts is a frame inside its tolerance bands, every entry of it, with
a word of as many bits as it has cells. -/
def Obligations.DecodedFrameIsWithinTolerance : Prop :=
  ∀ (c : Config) (d : FrameDescriptor) (raw : List Nat) (header : Bool) (f n : Nat), 1 ≤ d.nmin →
    decFrame c d raw header = .ok (f, n) →
      d.nmin ≤ n ∧ n ≤ d.nmax ∧ f < 2 ^ n
        ∧ ∃ g es, raw = g :: es ∧ Within c .mark (encFrame d f n header) es

/-- R301, R331, R334: no decoder but JVC's reads `raw[0]` or `last_tag`. -/
def Obligations.DecodersIgnorePreroll : Prop :=
  ∀ (c : Config) (p : Protocol) (g g' : Nat) (es : List Nat) (tag tag' : Byte), p ≠ .jvc →
    runDecoder c (g :: es) tag p = runDecoder c (g' :: es) tag' p

/-- R340, R196: a capture of four entries is the repeat sentinel, with no bits, exactly where its entries are in the
bands of header mark, repeat space and bit mark, whatever `last_tag` is, and is no NEC result otherwise. Under the
default parameters an NEC result is either that sentinel, 0xFFFFFFFF, of a four-entry capture or 32 bits of a
68-entry one, so the two are told apart. -/
def Obligations.NecRepeatDistinctFromData : Prop :=
  (∀ (c : Config) (g m s e : Nat) (tag : Byte) (r : Decoded),
      decNec c [g, m, s, e] tag = .ok r ↔
        matchMark c m c.table.nec.hdrMark = true ∧ matchSpace c s c.table.nec.rptSpace = true
          ∧ matchMark c e c.table.nec.bitMark = true ∧ r = ⟨c.repeatValue.toNat, 0, 0⟩)
    ∧ ∀ (raw : List Nat) (tag : Byte) (r : Decoded), decNec defaultConfig raw tag = .ok r →
      (raw.length = 4 ∧ r = ⟨0xFFFFFFFF, 0, 0⟩)
        ∨ (raw.length = 68 ∧ r.bits = 32 ∧ r.address = 0 ∧ r.value < 2 ^ 32)

/-- R346, R565: under the default parameters a JVC result comes from a header frame, or from a headerless one
just after a JVC result and within 1200 ticks. -/
def Obligations.JvcHeaderlessNeedsPriorJvc : Prop :=
  ∀ (raw : List Nat) (tag : Byte) (r : Decoded), decJvc defaultConfig raw tag = .ok r →
    r.bits = 16 ∧ r.address = 0 ∧ r.value < 2 ^ 16
      ∧ (raw.length = 36 ∨ (raw.length = 34 ∧ tag = 6 ∧ raw.headD 0 ≤ 1200))

/-- R406 for the pulse protocols, as functions: under the default parameters, with any of the three roundings, a
decoder gives back what its encoder was given, for the ranges of R406. The decode-only SANYO and MITSUBISHI give
back the word of a frame of 12 and of 16 cells laid out by their rows (R356, R358). -/
def Obligations.PulseRoundTrip : Prop :=
  ∀ (q : Rounding) (g : Nat) (tag : Byte),
    let t := defaultConfig.table
    let dec := fun (p : Protocol) (plan : List Nat) =>
      runDecoder defaultConfig (idealCapture q g plan) tag p
    (∀ v, v < 2 ^ 32 → dec .nec (encFrame t.nec v 32 true) = some ⟨v, 0, 32⟩
        ∧ dec .samsung (encFrame t.samsung v 32 true) = some ⟨v, 0, 32⟩
        ∧ dec .whynter (encFrame t.whynter v 32 true) = some ⟨v, 0, 32⟩)
      ∧ (∀ n v, 12 ≤ n → n ≤ 32 → v < 2 ^ n → dec .sony (encFrame t.sony v n true) = some ⟨v, 0, n⟩)
      ∧ (∀ v, v < 2 ^ 16 → dec .jvc (encFrame t.jvc v 16 true) = some ⟨v, 0, 16⟩
        ∧ (tag = 6 → g ≤ 1200 → dec .jvc (encFrame t.jvc v 16 false) = some ⟨v, 0, 16⟩))
      ∧ (∀ v, v < 2 ^ 28 → dec .lg (encFrame t.lg v 28 true) = some ⟨v, 0, 28⟩)
      ∧ (∀ a v, a < 2 ^ 16 → v < 2 ^ 32 →
        dec .panasonic (encFrame t.panasonic (a * 2 ^ 32 + v) 48 true) = some ⟨v, a, 32⟩)
      ∧ (∀ v, v < 2 ^ 15 →
        dec .aiwa (encFrame t.aiwa (aiwaWord defaultConfig v) 42 true) = some ⟨v, 0, 15⟩)
      ∧ (∀ a v, a < 2 ^ 4 → v < 2 ^ 10 →
        dec .denon (encFrame t.denon (a * 2 ^ 10 + v) 14 true) = some ⟨v, a, 10⟩)
      ∧ (∀ v, v < 2 ^ 12 → dec .sanyo (encFrame t.sanyo v 12 true) = some ⟨v, 0, 12⟩)
      ∧ (∀ v, v < 2 ^ 16 → dec .mitsubishi (encFrame t.mitsubishi v 16 true) = some ⟨v, 0, 16⟩)

/-- R406 for RC5: under the default parameters, for 10 to 32 bits and any of the three roundings, the decoder
gives back what the encoder was given, and DISPATCH reports RC5. -/
def Obligations.Rc5RoundTrip : Prop :=
  ∀ (q : Rounding) (g n v : Nat) (tag : Byte), 10 ≤ n → n ≤ 32 → v < 2 ^ n →
    let capture := idealCapture q g (encRc5 defaultConfig.table.rc5 v n)
    decRc5 defaultConfig capture tag = .ok ⟨v, 0, n⟩ ∧ dispatch defaultConfig capture tag = (1, ⟨v, 0, n⟩)

/-- R406 for RC6: under the default parameters, for 1 to 32 bits and any of the three roundings, the decoder
gives back what the encoder was given, and DISPATCH reports RC6. -/
def Obligations.Rc6RoundTrip : Prop :=
  ∀ (q : Rounding) (g n v : Nat) (tag : Byte), 1 ≤ n → n ≤ 32 → v < 2 ^ n →
    let capture := idealCapture q g (encRc6 defaultConfig.table.rc6 v n)
    decRc6 defaultConfig capture tag = .ok ⟨v, 0, n⟩ ∧ dispatch defaultConfig capture tag = (2, ⟨v, 0, n⟩)

-- The dispatcher

/-- R303, R518: the first enabled decoder of DECODE_ORDER that succeeds gives the result, and where none
succeeds the HashDecoder does, with the tag UNKNOWN and no bits. -/
def Obligations.DispatchFirstMatchWins : Prop :=
  ∀ (c : Config) (raw : List Nat) (tag : Byte),
    (∀ (before after : List Protocol) (p : Protocol) (r : Decoded),
        c.decodeOrder = before ++ p :: after →
        (∀ q ∈ before, c.decEnabled q = true → runDecoder c raw tag q = none) →
        c.decEnabled p = true → runDecoder c raw tag p = some r →
        dispatch c raw tag = (p.tag, r))
      ∧ ((∀ q ∈ c.decodeOrder, c.decEnabled q = true → runDecoder c raw tag q = none) →
        dispatch c raw tag = (0xFF, ⟨(hashCapture c raw).toNat, 0, 0⟩))

/-- R305: in READY, RX_DECODE writes the six fields of `res` and `last_tag` and answers OK; nothing else
changes. -/
def Obligations.RxDecodeWritesResult : Prop :=
  ∀ (s : State) (tag : Byte) (r : Decoded), s.rcvstate = .ready →
    dispatch s.cfg s.capture s.lastTag = (tag, r) →
      exec .rxDecode s = .next
        { s with res := ⟨tag, BitVec.ofNat 32 r.value, BitVec.ofNat 16 r.address,
                          BitVec.ofNat 8 r.bits, s.rawlen, s.overflow⟩,
                 lastTag := tag, statusOk := true, statusCmderr := false }

/-- R306, R132: in READY, RX_DECODE_COPY writes the result to `snap` and the capture to SNAPRAW, keeps the
cells of SNAPRAW at or above `rawlen`, and leaves `res` and everything else alone. -/
def Obligations.RxDecodeCopyOwnsItsCells : Prop :=
  ∀ (s : State) (tag : Byte) (r : Decoded), s.rcvstate = .ready →
    dispatch s.cfg s.capture s.lastTag = (tag, r) →
      ∃ t : State, exec .rxDecodeCopy s = .next t
        ∧ (∀ j, t.snapCell j = if j < s.rawlen.toNat then s.rawCell j else s.snapCell j)
        ∧ t = { s with snap := ⟨tag, BitVec.ofNat 32 r.value, BitVec.ofNat 16 r.address,
                                 BitVec.ofNat 8 r.bits, s.rawlen, s.overflow⟩,
                       snapraw := t.snapraw, lastTag := tag, statusOk := true, statusCmderr := false }

/-- R305, R306, R307: outside READY the decode commands and every AVAILABLE of an enabled decoder answer OK 0
and change nothing else. -/
def Obligations.DecodesWaitForReady : Prop :=
  ∀ (s : State) (i : Instr), s.rcvstate ≠ .ready →
    i ∈ [.rxDecode, .rxDecodeCopy, .availableHash]
      ∨ (∃ p, s.cfg.decEnabled p = true ∧ (i, p) ∈
          [(Instr.availableRc5, Protocol.rc5), (.availableRc6, .rc6), (.availableNec, .nec),
           (.availableSony, .sony), (.availablePanasonic, .panasonic), (.availableJvc, .jvc),
           (.availableSamsung, .samsung), (.availableWhynter, .whynter), (.availableAiwa, .aiwa),
           (.availableLg, .lg), (.availableSanyo, .sanyo), (.availableMitsubishi, .mitsubishi),
           (.availableDenon, .denon)]) →
      exec i s = .next { s with statusOk := false, statusCmderr := false }

/-- R307: in READY, AVAILABLE of an enabled decoder answers whether that decoder alone succeeds on the capture,
AVAILABLE.HASH always answers yes, and nothing but the status bits changes. -/
def Obligations.AvailableAsksOneDecoder : Prop :=
  ∀ s : State, s.rcvstate = .ready →
    exec .availableHash s = .next { s with statusOk := true, statusCmderr := false }
      ∧ ∀ ip ∈
          [(Instr.availableRc5, Protocol.rc5), (.availableRc6, .rc6), (.availableNec, .nec),
           (.availableSony, .sony), (.availablePanasonic, .panasonic), (.availableJvc, .jvc),
           (.availableSamsung, .samsung), (.availableWhynter, .whynter), (.availableAiwa, .aiwa),
           (.availableLg, .lg), (.availableSanyo, .sanyo), (.availableMitsubishi, .mitsubishi),
           (.availableDenon, .denon)],
        s.cfg.decEnabled ip.2 = true →
          exec ip.1 s = .next
            { s with statusOk := (runDecoder s.cfg s.capture s.lastTag ip.2).isSome,
                     statusCmderr := false }

/-- R303, R305, R406: under the default parameters, RX_DECODE in READY on the ideal capture of a frame of a protocol
with an encoder and a decoder, of the bit counts R406 lists, reports that protocol, its value, its address and its
bit count: NEC, PANASONIC, JVC, SAMSUNG, WHYNTER, AIWA, LG and DENON, SONY of 12 to 32 bits, the headerless JVC frame
just after a JVC result and within 1200 ticks, RC5 of 10 to 32 bits and RC6 of 1 to 32 bits. -/
def Obligations.RxDecodeNamesTheSender : Prop :=
  ∀ (s : State) (q : Rounding) (g v a n : Nat) (x : Protocol × List Nat × Decoded),
    s.cfg = defaultConfig → s.rcvstate = .ready → v < 2 ^ 32 → a < 2 ^ 16 →
    x ∈
      [ (.nec, encFrame s.cfg.table.nec v 32 true, ⟨v, 0, 32⟩),
        (.panasonic, encFrame s.cfg.table.panasonic (a * 2 ^ 32 + v) 48 true, ⟨v, a, 32⟩),
        (.jvc, encFrame s.cfg.table.jvc (v % 2 ^ 16) 16 true, ⟨v % 2 ^ 16, 0, 16⟩),
        (.samsung, encFrame s.cfg.table.samsung v 32 true, ⟨v, 0, 32⟩),
        (.whynter, encFrame s.cfg.table.whynter v 32 true, ⟨v, 0, 32⟩),
        (.aiwa, encFrame s.cfg.table.aiwa (aiwaWord s.cfg (v % 2 ^ 15)) 42 true,
          ⟨v % 2 ^ 15, 0, 15⟩),
        (.lg, encFrame s.cfg.table.lg (v % 2 ^ 28) 28 true, ⟨v % 2 ^ 28, 0, 28⟩),
        (.denon, encFrame s.cfg.table.denon (a % 2 ^ 4 * 2 ^ 10 + v % 2 ^ 10) 14 true,
          ⟨v % 2 ^ 10, a % 2 ^ 4, 10⟩) ]
      ∨ (12 ≤ n ∧ n ≤ 32
        ∧ x = (.sony, encFrame s.cfg.table.sony (v % 2 ^ n) n true, ⟨v % 2 ^ n, 0, n⟩))
      ∨ (s.lastTag = 6 ∧ g ≤ 1200
        ∧ x = (.jvc, encFrame s.cfg.table.jvc (v % 2 ^ 16) 16 false, ⟨v % 2 ^ 16, 0, 16⟩))
      ∨ (10 ≤ n ∧ n ≤ 32 ∧ x = (.rc5, encRc5 s.cfg.table.rc5 (v % 2 ^ n) n, ⟨v % 2 ^ n, 0, n⟩))
      ∨ (1 ≤ n ∧ n ≤ 32 ∧ x = (.rc6, encRc6 s.cfg.table.rc6 (v % 2 ^ n) n, ⟨v % 2 ^ n, 0, n⟩)) →
    s.capture = idealCapture q g x.2.1 →
      exec .rxDecode s = .next
        { s with res := ⟨x.1.tag, BitVec.ofNat 32 x.2.2.value, BitVec.ofNat 16 x.2.2.address,
                          BitVec.ofNat 8 x.2.2.bits, s.rawlen, s.overflow⟩,
                 lastTag := x.1.tag, statusOk := true, statusCmderr := false }

-- The HashDecoder

/-- R481, R483 (b): with the default parameters, two captures of equal length whose comparison codes differ at
exactly one place have different signatures. -/
def Obligations.HashTellsOneCodeApart : Prop :=
  ∀ (raw raw' : List Nat) (before after : List Word) (x y : Word),
    hashCodes defaultConfig raw = before ++ x :: after →
    hashCodes defaultConfig raw' = before ++ y :: after → x ≠ y →
      hashCapture defaultConfig raw ≠ hashCapture defaultConfig raw'

/-- R481, 95 section 6.6: entry 0 does not count, and multiplying every other entry by one positive factor
leaves the signature unchanged, whatever the parameters. -/
def Obligations.HashIgnoresScaleAndPreroll : Prop :=
  ∀ (c : Config) (g g' k : Nat) (es : List Nat), 0 < k →
    hashCapture c (g' :: es.map (k * ·)) = hashCapture c (g :: es)

-- Encoders and sends

/-- R404, R185, R187: the plan of a pulse frame: the pairs that are present, the cells from the most
significant bit on, and for DISTANCE the stop mark; and its length (no WIDTH row has a pre pair, R190). -/
def Obligations.FramePlanLayout : Prop :=
  ∀ (d : FrameDescriptor) (f n : Nat) (header : Bool), 1 ≤ n →
    encFrame d f n header =
      (if d.preMark ≠ 0 then [d.preMark, d.preSpace] else [])
        ++ (if header = true ∧ d.hdrMark ≠ 0 then [d.hdrMark, d.hdrSpace] else [])
        ++ (match d.kind with
            | .distance =>
              (List.range n).reverse.flatMap
                  (fun i => [d.bitMark, if f.testBit i then d.oneSpace else d.zeroSpace])
                ++ [d.stopMark]
            | .width =>
              ((List.range n).reverse.map (fun i => if f.testBit i then d.oneMark else d.zeroMark)).intersperse
                d.bitSpace)
      ∧ (d.kind = .distance → (encFrame d f n header).length
          = (if d.preMark ≠ 0 then 2 else 0) + (if header = true ∧ d.hdrMark ≠ 0 then 2 else 0)
            + 2 * n + 1)
      ∧ (d.kind = .width → d.preMark = 0 → (encFrame d f n header).length
          = (if header = true ∧ d.hdrMark ≠ 0 then 2 else 0) + 2 * n - 1)

/-- R442, R443: one element of a plan gives exactly one segment, marks at even places with the carrier,
spaces at odd places, durations unchanged. -/
def Obligations.PlanElementsBecomeSegments : Prop :=
  ∀ (khz : Nat) (plan : List Nat),
    (segmentsFrom khz .mark plan).length = plan.length
      ∧ ∀ i us, plan[i]? = some us →
        (segmentsFrom khz .mark plan)[i]? = some (if i % 2 = 0 then .mark us khz else .space us)

/-- R402, R403, R407, R408, R410, R411, R412, R414, R416: with a bit count in 1..32 and an enabled encoder, a
SEND of the low `nbits` bits plays one frame at the protocol's carrier (SEND.JVC leaves the header out where
REPEAT is set), clears `rx_enable`, answers OK, and changes nothing else. -/
def Obligations.SendPlaysValueFrame : Prop :=
  ∀ (s : State) (x : Instr × Protocol × FrameDescriptor × Bool),
    x ∈
      [ (.sendNec, .nec, s.cfg.table.nec, true), (.sendSony, .sony, s.cfg.table.sony, true),
        (.sendJvc, .jvc, s.cfg.table.jvc, !(s.argFlags.getLsbD 0)),
        (.sendSamsung, .samsung, s.cfg.table.samsung, true),
        (.sendWhynter, .whynter, s.cfg.table.whynter, true), (.sendLg, .lg, s.cfg.table.lg, true),
        (.sendDish, .dish, s.cfg.table.dish, true) ] →
    s.cfg.encEnabled x.2.1 = true → 1 ≤ s.argNbits.toNat → s.argNbits.toNat ≤ 32 →
      exec x.1 s = .next
        { s with
          rxEnable := false
          txout := s.txout ++ segmentsFrom x.2.2.1.khz .mark
            (encFrame x.2.2.1 (s.argValue.toNat % 2 ^ s.argNbits.toNat) s.argNbits.toNat x.2.2.2)
          statusOk := true
          statusCmderr := false }

/-- R409, R413, R415, R417, R192 to R194: the SENDs of a fixed width compose their frame word from the operand
fields and play it, whatever `arg_nbits` is; bit `i` of the
`rev_N` that the AIWA word uses is bit `N-1-i` (R14). -/
def Obligations.SendPlaysFixedFrame : Prop :=
  (∀ n v i : Nat, (revBits n v).testBit i = (decide (i < n) && v.testBit (n - 1 - i)))
  ∧ ∀ (s : State) (x : Instr × Protocol × FrameDescriptor × Nat × Nat),
    x ∈
      [ (.sendPanasonic, .panasonic, s.cfg.table.panasonic,
          s.argAddr.toNat * 2 ^ 32 + s.argValue.toNat, 48),
        (.sendAiwa, .aiwa, s.cfg.table.aiwa,
          s.cfg.aiwaPre * 2 ^ 16 + revBits 15 (s.argValue.toNat % 2 ^ 15) * 2, 42),
        (.sendDenon, .denon, s.cfg.table.denon,
          s.argAddr.toNat % 2 ^ 4 * 2 ^ 10 + s.argValue.toNat % 2 ^ 10, 14),
        (.sendSharp, .sharp, s.cfg.table.sharp,
          s.argAddr.toNat % 2 ^ 5 * 2 ^ 10 + s.argValue.toNat % 2 ^ 8 * 2 ^ 2 + 2, 15) ] →
    s.cfg.encEnabled x.2.1 = true →
      exec x.1 s = .next
        { s with
          rxEnable := false
          txout := s.txout ++ segmentsFrom x.2.2.1.khz .mark
            (encFrame x.2.2.1 x.2.2.2.1 x.2.2.2.2 true)
          statusOk := true
          statusCmderr := false }

/-- R195, R402, R405, R420, R421: SEND.RC5 and SEND.RC6 of 1 to 32 bits play their biphase plan and change nothing
else. The plan begins and ends with a mark and every element is a whole number of half cells; cut into half cells,
with the final SPACE half that is not played, it is MARK, SPACE, MARK and for each bit, the most significant first,
SPACE, MARK for a 1 and MARK, SPACE for a 0 (RC5); and after the header pair MARK, SPACE and for each bit MARK, SPACE
for a 1 and SPACE, MARK for a 0, the halves of the fourth doubled (RC6). -/
def Obligations.SendPlaysBiphasePlan : Prop :=
  (∀ s : State, 1 ≤ s.argNbits.toNat → s.argNbits.toNat ≤ 32 →
    (s.cfg.encEnabled .rc5 = true → exec .sendRc5 s = .next
      { s with
        rxEnable := false
        txout := s.txout ++ segmentsFrom s.cfg.table.rc5.khz .mark
          (encRc5 s.cfg.table.rc5 (s.argValue.toNat % 2 ^ s.argNbits.toNat) s.argNbits.toNat)
        statusOk := true
        statusCmderr := false })
    ∧ (s.cfg.encEnabled .rc6 = true → exec .sendRc6 s = .next
      { s with
        rxEnable := false
        txout := s.txout ++ segmentsFrom s.cfg.table.rc6.khz .mark
          (encRc6 s.cfg.table.rc6 (s.argValue.toNat % 2 ^ s.argNbits.toNat) s.argNbits.toNat)
        statusOk := true
        statusCmderr := false }))
  ∧ ∀ (d : BiphaseDescriptor) (v n : Nat), 1 ≤ n → 1 ≤ d.t1 →
    ((encRc5 d v n).length % 2 = 1
      ∧ (∀ us ∈ encRc5 d v n, us ≠ 0 ∧ d.t1 ∣ us)
      ∧ planHalves d.t1 .mark (encRc5 d v n) ++ (if v.testBit 0 then [] else [.space])
        = [.mark, .space, .mark]
          ++ (List.range n).reverse.flatMap fun i =>
            if v.testBit i then [.space, .mark] else [.mark, .space])
    ∧ ∃ plan : List Nat, encRc6 d v n = d.hdrMark :: d.hdrSpace :: plan
      ∧ plan.length % 2 = 1
      ∧ (∀ us ∈ plan, us ≠ 0 ∧ d.t1 ∣ us)
      ∧ planHalves d.t1 .mark plan
          ++ (if v.testBit 0 then List.replicate (if n = 4 then 2 else 1) .space else [])
        = [.mark, .space]
          ++ (List.range n).reverse.flatMap fun i =>
            let k := if n - i = 4 then 2 else 1
            if v.testBit i then List.replicate k .mark ++ List.replicate k .space
            else List.replicate k .space ++ List.replicate k .mark

/-- R441, R442: with `arg_len` at most TX_CAPACITY and `arg_khz` not 0, SEND.RAW plays
`txbuf[0 .. arg_len-1]`, a mark for each even cell and a space for each odd one; otherwise it is illegal; nothing
else changes. -/
def Obligations.SendRawPlaysTxbuf : Prop :=
  decode [0x40] = .ok (.sendRaw, [])
  ∧ ∀ s : State,
    (s.argLen.toNat ≤ s.cfg.txCapacity → s.argKhz ≠ 0 →
      exec .sendRaw s = .next
        { s with
          rxEnable := false
          txout := s.txout ++ (List.range s.argLen.toNat).map (fun i =>
            if i % 2 = 0 then .mark (s.txCell i).toNat s.argKhz.toNat else .space (s.txCell i).toNat)
          statusOk := true
          statusCmderr := false })
    ∧ (s.cfg.txCapacity < s.argLen.toNat ∨ s.argKhz = 0 →
      exec .sendRaw s = .next { s with statusOk := false, statusCmderr := true })

/-- R12, R172, R173, R175, R178: a SEND whose operand is out of range, and the command of a codec that is not
enabled, are illegal: only the two status bits change. -/
def Obligations.IllegalOperandOrCodecChangesOnlyStatus : Prop :=
  ∀ (s : State) (i : Instr),
    (i ∈ [.sendRc5, .sendRc6, .sendNec, .sendSony, .sendJvc, .sendSamsung, .sendWhynter, .sendLg,
          .sendDish] ∧ (s.argNbits.toNat = 0 ∨ 32 < s.argNbits.toNat))
      ∨ (i = .sendPronto ∧ s.cfg.ptxtCapacity < s.argLen.toNat)
      ∨ (∃ p, p ∉ s.cfg.enableDec ∧ (i, p) ∈
          [(Instr.availableRc5, Protocol.rc5), (.availableRc6, .rc6), (.availableNec, .nec),
           (.availableSony, .sony), (.availablePanasonic, .panasonic), (.availableJvc, .jvc),
           (.availableSamsung, .samsung), (.availableWhynter, .whynter), (.availableAiwa, .aiwa),
           (.availableLg, .lg), (.availableSanyo, .sanyo), (.availableMitsubishi, .mitsubishi),
           (.availableDenon, .denon)])
      ∨ (∃ p, p ∉ s.cfg.enableEnc ∧ (i, p) ∈
          [(Instr.sendRc5, Protocol.rc5), (.sendRc6, .rc6), (.sendNec, .nec), (.sendSony, .sony),
           (.sendPanasonic, .panasonic), (.sendJvc, .jvc), (.sendSamsung, .samsung),
           (.sendWhynter, .whynter), (.sendAiwa, .aiwa), (.sendLg, .lg), (.sendDenon, .denon),
           (.sendDish, .dish), (.sendSharp, .sharp)]) →
      exec i s = .next { s with statusOk := false, statusCmderr := true }

-- SEND.PRONTO

/-- R464: SELECT, for both requests and with and without fallback. -/
def Obligations.ProntoSelection : Prop :=
  ∀ (once rpt : List Nat),
    (once ≠ [] → ∀ fb, prontoSelect once rpt false fb = .ok once)
      ∧ (rpt ≠ [] → ∀ fb, prontoSelect once rpt true fb = .ok rpt)
      ∧ (rpt ≠ [] → prontoSelect [] rpt false true = .ok rpt)
      ∧ (once ≠ [] → prontoSelect once [] true true = .ok once)
      ∧ prontoSelect [] rpt false false = .error .unsupportedRequest
      ∧ prontoSelect once [] true false = .error .unsupportedRequest
      ∧ ∀ r fb, prontoSelect [] [] r fb = .error .unsupportedRequest

/-- R461, R463, R464, R467, R468, R470: a text whose fields spell well-formed words, in either case and with any
number of spaces around them, plays the sub-sequence asked for, or the other one under FALLBACK, at the carrier and
with the durations the words give; where neither is there, or the sequence is longer than TX_CAPACITY, OK is 0 and
nothing else changes. -/
def Obligations.ProntoTextPlaysItsWords : Prop :=
  ∀ (s : State) (n once rpt : Nat) (body : List Nat),
    s.argLen.toNat ≤ s.cfg.ptxtCapacity →
    SpellsWords s.pronText (0 :: n :: once :: rpt :: body) →
    n ≠ 0 → body.length = 2 * (once + rpt) →
      let khz := (10 ^ 12 / (n * s.cfg.prontoUnitPs) + 500) / 1000
      let onceSeq := body.take (2 * once)
      let rptSeq := body.drop (2 * once)
      let want := if s.argFlags.getLsbD 0 then rptSeq else onceSeq
      let other := if s.argFlags.getLsbD 0 then onceSeq else rptSeq
      let seq := if want = [] ∧ s.argFlags.getLsbD 1 = true then other else want
      khz ≠ 0 →
        (seq ≠ [] → seq.length ≤ s.cfg.txCapacity → exec .sendPronto s = .next
          { s with
            rxEnable := false
            txout := s.txout ++ segmentsFrom khz .mark
              (seq.map fun count => (count * n * s.cfg.prontoUnitPs + 500000) / 1000000)
            statusOk := true
            statusCmderr := false })
        ∧ (seq = [] ∨ s.cfg.txCapacity < seq.length →
          exec .sendPronto s = .next { s with statusOk := false, statusCmderr := false })

/-- R461, R463, R467, R470: a malformed text answers OK 0 and changes nothing else: a field that is not four
hexadecimal digits, fewer than four fields, a marker other than 0, a frequency code of 0 or one that gives 0 kHz,
or a field count that is not `4 + 2·(once + rpt)`. And whatever the text, a SEND.PRONTO that does not answer OK
changes nothing but the two status bits: no partial playback. -/
def Obligations.ProntoFailsClosed : Prop :=
  (∀ s : State, s.argLen.toNat ≤ s.cfg.ptxtCapacity →
    (∃ f, FieldOf f s.pronText ∧ ¬ ∃ w, SpellsField f w)
      ∨ (∃ ws : List Nat, SpellsWords s.pronText ws ∧ ws.length < 4)
      ∨ (∃ (marker n once rpt : Nat) (body : List Nat),
        SpellsWords s.pronText (marker :: n :: once :: rpt :: body)
          ∧ (marker ≠ 0 ∨ n = 0 ∨ body.length ≠ 2 * (once + rpt)
            ∨ (1 ≤ n * s.cfg.prontoUnitPs
              ∧ (10 ^ 12 / (n * s.cfg.prontoUnitPs) + 500) / 1000 = 0))) →
      exec .sendPronto s = .next { s with statusOk := false, statusCmderr := false })
  ∧ ∀ s t : State, exec .sendPronto s = .next t → t.statusOk = false →
    t = { s with statusOk := false, statusCmderr := t.statusCmderr }
end

