-- ==== Sys2Proof/Laws/Biphase.lean ====
section
/-! SUPPORT. The biphase reader and the biphase plan: what the level cursor hands out, one pass of the cell
loop, and what merging keeps of the half cells. -/

namespace Sys2Proof.Machine

/-- From cursor `k` on the capture hands out the levels `ls` and then ends: whole entries of 1 to 3 half
cells, and SPACE past the last entry (R381). -/
inductive Reads (c : Config) (raw : List Nat) (t1 : Nat) : Cursor → List Level → Prop where
  | idle {k : Cursor} {ls : List Level} (h : raw.length ≤ k.o) (hs : ∀ l ∈ ls, l = .space) :
      Reads c raw t1 k ls
  | entry {k : Cursor} {avail : Nat} {ls : List Level} (h : k.o < raw.length)
      (ha : halfCells c (entryLevel k.o) (raw.getD k.o 0) t1 = some avail) (hu : k.used < avail)
      (hr : Reads c raw t1 { o := k.o + 1, used := 0 } ls) :
      Reads c raw t1 k (List.replicate (avail - k.used) (entryLevel k.o) ++ ls)

variable {c : Config} {raw : List Nat} {t1 : Nat} {k : Cursor}

/-- One call of the cursor hands out the next level (R381). -/
theorem Reads.getLevel {l : Level} {ls : List Level} (h : Reads c raw t1 k (l :: ls)) :
    ∃ k', getLevel c raw t1 k = (some l, k') ∧ Reads c raw t1 k' ls := by
  generalize e : l :: ls = all at h
  cases h with
  | idle h hs =>
    subst e
    have hl : l = .space := hs l (by simp)
    exact ⟨k, by simp [Machine.getLevel, h, hl], .idle h fun x hx => hs x (by simp [hx])⟩
  | @entry _ avail ls' h ha hu hr =>
    obtain ⟨j, hj⟩ : ∃ j, avail - k.used = j + 1 := ⟨avail - k.used - 1, by omega⟩
    rw [hj, List.replicate_succ, List.cons_append, List.cons.injEq] at e
    obtain ⟨rfl, rfl⟩ := e
    simp only [Machine.getLevel, Nat.not_le.2 h, if_false, ha]
    by_cases hlast : avail ≤ k.used + 1
    · have : j = 0 := by omega
      subst this
      exact ⟨_, by simp [hlast], hr⟩
    · refine ⟨{ o := k.o, used := k.used + 1 }, by simp [hlast], ?_⟩
      have := Reads.entry (k := { o := k.o, used := k.used + 1 }) h ha (by simp; omega) hr
      rwa [show avail - (k.used + 1) = j by omega] at this

/-- A start sequence that the capture hands out is accepted (R383, R385). -/
theorem Reads.expect {ls ls' : List Level} (h : Reads c raw t1 k (ls ++ ls')) :
    ∃ k', expectLevels c raw t1 ls k = .ok k' ∧ Reads c raw t1 k' ls' := by
  induction ls generalizing k with
  | nil => exact ⟨k, rfl, h⟩
  | cons l ls ih =>
    obtain ⟨k1, h1, hr⟩ := Reads.getLevel h
    obtain ⟨k2, h2, hr'⟩ := ih hr
    exact ⟨k2, by simp [expectLevels, h1, h2], hr'⟩

/-- While a mark is still to be handed out the capture has not ended. -/
theorem Reads.lt_length {ls : List Level} (h : Reads c raw t1 k ls) (hm : .mark ∈ ls) :
    k.o < raw.length := by
  cases h with
  | idle _ hs => have := hs _ hm; cases this
  | entry h => exact h

/-- With nothing left to hand out the capture has ended. -/
theorem Reads.nil_length (h : Reads c raw t1 k []) : raw.length ≤ k.o := by
  generalize e : ([] : List Level) = all at h
  cases h with
  | idle h _ => exact h
  | entry h ha hu hr =>
    exfalso
    have := congrArg List.length e
    simp at this
    omega

/-- The levels of one half, single or doubled, are read as that level (R385). -/
theorem Reads.half {l : Level} {doubled : Bool} {ls : List Level}
    (h : Reads c raw t1 k (List.replicate (if doubled then 2 else 1) l ++ ls)) :
    ∃ k', halfOf c raw t1 doubled k = .ok (some l, k') ∧ Reads c raw t1 k' ls := by
  cases doubled
  · obtain ⟨k1, h1, hr⟩ := Reads.getLevel (l := l) (ls := ls) h
    exact ⟨k1, by simp [halfOf, h1], hr⟩
  · obtain ⟨k1, h1, hr⟩ := Reads.getLevel (l := l) (ls := l :: ls) h
    obtain ⟨k2, h2, hr2⟩ := Reads.getLevel hr
    exact ⟨k2, by simp [halfOf, h1, h2], hr2⟩

/-- The levels of one bit: the half of a 1's first level first where the bit is 1 (R195). -/
def bitLevels (one : Level) (bit doubled : Bool) : List Level :=
  let n := if doubled then 2 else 1
  if bit == (one == .mark) then List.replicate n .mark ++ List.replicate n .space
  else List.replicate n .space ++ List.replicate n .mark

/-- One pass of the cell loop on the levels of a bit (R383, R385). -/
theorem Reads.pass {d : BiphaseDescriptor} {one : Level} {dbl : Option Nat} {fuel v n : Nat} {bit : Bool}
    {ls : List Level} (h : Reads c raw d.t1 k (bitLevels one bit (dbl == some n) ++ ls))
    (hn : n + 1 ≤ d.nmax) :
    ∃ k', readBiphase c d one dbl raw (fuel + 1) k v n
        = readBiphase c d one dbl raw fuel k' (2 * v + bit.toNat) (n + 1)
      ∧ Reads c raw d.t1 k' ls := by
  have hlt : k.o < raw.length := h.lt_length (by
    cases one <;> cases bit <;> cases hdb : (dbl == some n) <;> simp [bitLevels])
  have hn' : ¬ d.nmax < n + 1 := by omega
  unfold bitLevels at h
  dsimp only at h
  split at h
  · rename_i hb
    rw [List.append_assoc] at h
    obtain ⟨k1, h1, hr⟩ := Reads.half h
    obtain ⟨k2, h2, hr2⟩ := Reads.half hr
    refine ⟨k2, ?_, hr2⟩
    rw [readBiphase, if_neg (Nat.not_le.2 hlt)]
    simp only [h1, h2, cellBit, if_neg hn']
    cases one <;> cases bit <;> simp at hb ⊢
  · rename_i hb
    rw [List.append_assoc] at h
    obtain ⟨k1, h1, hr⟩ := Reads.half h
    obtain ⟨k2, h2, hr2⟩ := Reads.half hr
    refine ⟨k2, ?_, hr2⟩
    rw [readBiphase, if_neg (Nat.not_le.2 hlt)]
    simp only [h1, h2, cellBit, if_neg hn']
    cases one <;> cases bit <;> simp at hb ⊢

/-- The loop ends with the capture (R383, R385). -/
theorem Reads.finish {d : BiphaseDescriptor} {one : Level} {dbl : Option Nat} {fuel v n : Nat}
    (h : Reads c raw d.t1 k []) : readBiphase c d one dbl raw (fuel + 1) k v n = .ok (v, n) := by
  rw [readBiphase, if_pos h.nil_length]

/-! Merging half cells (R405). -/

/-- Two neighbouring elements have different levels. -/
def Alternating : List (Level × Nat) → Prop
  | [] => True
  | [_] => True
  | a :: b :: hs => a.1 ≠ b.1 ∧ Alternating (b :: hs)

theorem mergeHalves_alternating (hs : List (Level × Nat)) : Alternating (mergeHalves hs) := by
  induction hs with
  | nil => trivial
  | cons a hs ih =>
    obtain ⟨l, t⟩ := a
    simp only [mergeHalves]
    split
    · rename_i l' t' rest e
      rw [e] at ih
      split
      · rename_i hl
        subst hl
        cases rest with
        | nil => trivial
        | cons b rest => exact ⟨ih.1, ih.2⟩
      · rename_i hl
        exact ⟨hl, ih⟩
    · trivial

/-- The levels of half cells whose lengths are multiples of `t`. -/
def levelsOf (t : Nat) (hs : List (Level × Nat)) : List Level :=
  hs.flatMap fun h => List.replicate (h.2 / t) h.1

/-- Merging keeps the levels, half cell by half cell. -/
theorem levelsOf_mergeHalves (t : Nat) (hs : List (Level × Nat)) (hm : ∀ h ∈ hs, t ∣ h.2) :
    levelsOf t (mergeHalves hs) = levelsOf t hs ∧ ∀ h ∈ mergeHalves hs, t ∣ h.2 := by
  induction hs with
  | nil => exact ⟨rfl, hm⟩
  | cons a hs ih =>
    obtain ⟨l, u⟩ := a
    obtain ⟨ih1, ih2⟩ := ih fun h hh => hm h (by simp [hh])
    have hu : t ∣ u := hm (l, u) (by simp)
    simp only [mergeHalves]
    split
    · rename_i l' t' rest e
      rw [e] at ih1 ih2
      have ht' : t ∣ t' := ih2 (l', t') (by simp)
      split
      · rename_i hl
        subst hl
        constructor
        · rw [show levelsOf t ((l, u) :: hs) = List.replicate (u / t) l ++ levelsOf t hs from rfl, ← ih1]
          simp only [levelsOf, List.flatMap_cons]
          rw [Nat.add_div_of_dvd_right hu, List.replicate_add, List.append_assoc]
        · intro h hh
          rcases List.mem_cons.1 hh with rfl | hh
          · exact Nat.dvd_add hu ht'
          · exact ih2 h (by simp [hh])
      · constructor
        · rw [show levelsOf t ((l, u) :: hs) = List.replicate (u / t) l ++ levelsOf t hs from rfl, ← ih1]
          rfl
        · intro h hh
          rcases List.mem_cons.1 hh with rfl | hh
          · exact hu
          · exact ih2 h hh
    · rename_i e
      constructor
      · rw [show levelsOf t ((l, u) :: hs) = List.replicate (u / t) l ++ levelsOf t hs from rfl, ← ih1, e]
        simp [levelsOf]
      · intro h hh
        rw [List.mem_singleton.1 hh]
        exact hu

/-- A capture whose entries from `o` on are the merged half cells, 1 to 3 half cells each, hands out their
levels. -/
theorem reads_of_merged {t : Nat} (hs : List (Level × Nat)) (o : Nat) (w : Nat → Nat)
    (hfit : ∀ l n, 1 ≤ n → n ≤ 3 → halfCells c l (w (n * t)) t = some n)
    (hbound : ∀ h ∈ hs, ∃ n, 1 ≤ n ∧ n ≤ 3 ∧ h.2 = n * t) (ht : 0 < t)
    (halt : Alternating hs) (hhead : ∀ h ∈ hs.head?, h.1 = entryLevel o)
    (hraw : raw.drop o = (dropTrailingSpace hs).map fun h => w h.2) :
    Reads c raw t { o := o, used := 0 } (levelsOf t hs) := by
  induction hs generalizing o with
  | nil =>
    simp only [dropTrailingSpace, List.map_nil, List.drop_eq_nil_iff] at hraw
    exact .idle hraw (by simp [levelsOf])
  | cons a hs ih =>
    obtain ⟨l, u⟩ := a
    obtain ⟨n, hn1, hn3, rfl⟩ := hbound (l, u) (by simp)
    obtain rfl : l = entryLevel o := hhead _ rfl
    have key : ∀ rest, raw.drop o = w (n * t) :: rest →
        Reads c raw t { o := o + 1, used := 0 } (levelsOf t hs) →
        Reads c raw t { o := o, used := 0 } (levelsOf t ((entryLevel o, n * t) :: hs)) := by
      intro rest hd hr
      have hlt : o < raw.length := by
        by_contra hge
        rw [List.drop_eq_nil_of_le (by omega)] at hd
        cases hd
      have hget : raw.getD o 0 = w (n * t) := by
        have := congrArg (·[0]?) hd
        simp only [List.getElem?_drop, Nat.add_zero, List.getElem?_cons_zero] at this
        simp [List.getD, this]
      have := Reads.entry (k := { o := o, used := 0 }) hlt
        (by rw [show ({ o := o, used := 0 } : Cursor).o = o from rfl, hget]; exact hfit _ n hn1 hn3)
        hn1 hr
      simpa [levelsOf, Nat.mul_div_cancel _ ht] using this
    cases hs with
    | nil =>
      cases hl : entryLevel o
      · rw [hl] at hraw
        simp only [dropTrailingSpace, List.map_nil, List.drop_eq_nil_iff] at hraw
        refine .idle hraw ?_
        intro x hx
        simp only [levelsOf, List.flatMap_cons, List.flatMap_nil, List.append_nil] at hx
        exact List.eq_of_mem_replicate hx
      · rw [← hl]
        rw [hl] at hraw
        simp only [dropTrailingSpace, List.map_cons, List.map_nil] at hraw
        refine key [] hraw (.idle ?_ (by simp [levelsOf]))
        have := congrArg List.length hraw
        simp at this
        show raw.length ≤ o + 1
        omega
    | cons b hs =>
      have hraw' : raw.drop o = w (n * t) :: ((dropTrailingSpace (b :: hs)).map fun h => w h.2) := by
        rw [hraw]
        cases hl : entryLevel o <;> simp [dropTrailingSpace]
      refine key _ hraw' (ih (o + 1) (fun h hh => hbound h (by simp [hh])) halt.2 ?_ ?_)
      · intro h hh
        obtain rfl : b = h := by simpa using hh
        have hne := halt.1
        have : entryLevel (o + 1) ≠ entryLevel o := by
          unfold entryLevel
          split <;> split <;> first | omega | simp
        revert hne this
        show entryLevel o ≠ b.1 → _ → _
        cases b.1 <;> cases entryLevel o <;> cases entryLevel (o + 1) <;> simp
      · have := congrArg List.tail hraw'
        simpa using this

end Sys2Proof.Machine
end

