-- ==== Sys2Proof/Laws/Frames.lean ====
section
/-! SUPPORT. The pulse frame reader and the pulse frame plan, piece by piece: what each reader can answer, and
what it answers on entries that stay inside the tolerance bands of a plan. -/

namespace Sys2Proof.Machine

variable {c : Config} {d : FrameDescriptor}

/-- Where the band of `d0` ends below that of `d1`, no entry lies in both (R245). -/
theorem matchUs_below {e : Int} {d0 d1 tol : Nat}
    (h : (d0 : Int) * (100 + tol) + 100 * c.guardUs < d1 * (100 - tol) - 100 * c.guardUs)
    (h0 : matchUs c e d0 tol = true) : matchUs c e d1 tol = false := by
  simp only [matchUs, Bool.and_eq_true, decide_eq_true_eq, Bool.and_eq_false_iff,
    decide_eq_false_iff_not] at h0 ⊢
  left; omega

/-- Where the band of `d0` starts above that of `d1`, no entry lies in both (R245). -/
theorem matchUs_above {e : Int} {d0 d1 tol : Nat}
    (h : (d1 : Int) * (100 + tol) + 100 * c.guardUs < d0 * (100 - tol) - 100 * c.guardUs)
    (h0 : matchUs c e d0 tol = true) : matchUs c e d1 tol = false := by
  simp only [matchUs, Bool.and_eq_true, decide_eq_true_eq, Bool.and_eq_false_iff,
    decide_eq_false_iff_not] at h0 ⊢
  right; omega

theorem Within.nil_right {l : Level} {plan : List Nat} (h : Within c l plan []) : plan = [] := by
  cases plan with
  | nil => rfl
  | cons => cases l <;> exact h.elim

/-- A capture inside a plan's bands has as many entries as the plan. -/
theorem Within.length {l : Level} {plan es : List Nat} (h : Within c l plan es) :
    es.length = plan.length := by
  induction plan generalizing l es with
  | nil => cases es with
    | nil => rfl
    | cons => cases l <;> exact h.elim
  | cons x plan ih =>
    cases es with
    | nil => cases l <;> exact h.elim
    | cons m es =>
      cases l
      · simpa using ih h.2
      · simpa using ih h.2

/-- The first mark and space of a plan, and the entries that match them. -/
theorem Within.pair {m s : Nat} {plan es : List Nat} (h : Within c .mark (m :: s :: plan) es) :
    ∃ a b rest, es = a :: b :: rest ∧ matchMark c a m = true ∧ matchSpace c b s = true
      ∧ Within c .mark plan rest := by
  match es, h with
  | [a], h => exact (h.2).elim
  | a :: b :: rest, h => exact ⟨a, b, rest, rfl, h.1, h.2.1, h.2.2⟩

/-- The last mark of a plan, and the entry that matches it. -/
theorem Within.last {m : Nat} {es : List Nat} (h : Within c .mark [m] es) :
    ∃ a, es = [a] ∧ matchMark c a m = true := by
  match es, h with
  | [a], h => exact ⟨a, rfl, h.1⟩
  | _ :: _ :: _, h => exact (h.2).elim

/-- Two captures inside their plans' bands, one after the other; the first plan ends with a space. -/
theorem Within.append {p q es es' : List Nat} (h : Within c .mark p es) (hp : p.length % 2 = 0)
    (h' : Within c .mark q es') : Within c .mark (p ++ q) (es ++ es') := by
  induction p using List.twoStepInduction generalizing es with
  | nil => obtain rfl := List.length_eq_zero_iff.1 h.length; exact h'
  | singleton => simp at hp
  | cons_cons m s p ih =>
    obtain ⟨a, b, rest, rfl, hm, hs, hr⟩ := h.pair
    exact ⟨hm, hs, ih hr (by simp only [List.length_cons] at hp; omega)⟩

/-! The plan of a frame. -/

theorem pairOf_length (present : Bool) (m s : Nat) : (pairOf present m s).length = pairLen present := by
  cases present <;> rfl

theorem distanceCells_length (f n : Nat) : (distanceCells d f n).length = 2 * n := by
  induction n with
  | zero => rfl
  | succ n ih => simp [distanceCells, ih]; omega

theorem widthCells_length (f n : Nat) : (widthCells d f n).length = 2 * n - 1 := by
  induction n with
  | zero => rfl
  | succ n ih =>
    by_cases h : n = 0
    · simp [widthCells, h]
    · simp [widthCells, h, ih]; omega

/-- The cells of a frame word are those of its low bits. -/
theorem distanceCells_congr {f g : Nat} (n : Nat) (h : ∀ i < n, f.testBit i = g.testBit i) :
    distanceCells d f n = distanceCells d g n := by
  induction n with
  | zero => rfl
  | succ n ih =>
    simp only [distanceCells, h n (Nat.lt_succ_self n), ih fun i hi => h i (Nat.lt_succ_of_lt hi)]

theorem widthCells_congr {f g : Nat} (n : Nat) (h : ∀ i < n, f.testBit i = g.testBit i) :
    widthCells d f n = widthCells d g n := by
  induction n with
  | zero => rfl
  | succ n ih =>
    simp only [widthCells, h n (Nat.lt_succ_self n), ih fun i hi => h i (Nat.lt_succ_of_lt hi)]

/-- A bit put before `n` bits: its own place, and the places below it. -/
theorem testBit_put (n b f : Nat) (hb : b < 2) (hf : f < 2 ^ n) :
    (b * 2 ^ n + f).testBit n = decide (b = 1) ∧ ∀ i < n, (b * 2 ^ n + f).testBit i = f.testBit i := by
  have hb' : b = 0 ∨ b = 1 := by omega
  constructor
  · obtain rfl | rfl := hb'
    · simp [Nat.testBit_lt_two_pow hf]
    · simp [Nat.testBit_two_pow_add_eq, Nat.testBit_lt_two_pow hf]
  · intro i hi
    obtain rfl | rfl := hb'
    · simp
    · simpa using Nat.testBit_two_pow_add_gt hi f

/-- The low `n + 1` bits, the top one first. -/
theorem mod_succ (f n : Nat) : f % 2 ^ (n + 1) = (if f.testBit n then 2 ^ n else 0) + f % 2 ^ n := by
  rw [Nat.mod_pow_succ, Nat.add_comm, Nat.testBit_eq_decide_div_mod_eq]
  obtain h | h := Nat.mod_two_eq_zero_or_one (f / 2 ^ n) <;> simp [h]

/-! What the readers answer. -/

/-- A pair is read where it is absent, or where both entries match. -/
theorem readPair_ok {present : Bool} {m s : Nat} {es es' : List Nat}
    (h : readPair c present m s es = .ok es') :
    ∃ pre, es = pre ++ es' ∧ Within c .mark (pairOf present m s) pre := by
  unfold readPair at h
  cases present
  · simp only [Bool.false_eq_true, if_false, Except.ok.injEq] at h
    exact ⟨[], by simp [h], trivial⟩
  · simp only [if_true] at h
    split at h
    · split at h
      · rename_i hm
        rw [Bool.and_eq_true] at hm
        cases h
        exact ⟨[_, _], rfl, hm.1, hm.2, trivial⟩
      · cases h
    · cases h

theorem readPair_within {present : Bool} {m s : Nat} {plan es : List Nat}
    (h : Within c .mark (pairOf present m s ++ plan) es) :
    ∃ es', readPair c present m s es = .ok es' ∧ Within c .mark plan es' := by
  cases present
  · exact ⟨es, rfl, h⟩
  · obtain ⟨a, b, rest, rfl, hm, hs, hr⟩ := Within.pair h
    exact ⟨rest, by simp [readPair, hm, hs], hr⟩

/-- The cells a DISTANCE reader accepts, and the frame word they make. -/
theorem readDistance_ok {n : Nat} {es es' : List Nat} {a f : Nat}
    (h : readDistance c d n es a = .ok (f, es')) :
    ∃ pre g, es = pre ++ es' ∧ f = a * 2 ^ n + g ∧ g < 2 ^ n
      ∧ Within c .mark (distanceCells d g n) pre := by
  induction n generalizing es a with
  | zero =>
    simp only [readDistance, Except.ok.injEq, Prod.mk.injEq] at h
    exact ⟨[], 0, by simp [h.2], by simp [h.1], by simp, trivial⟩
  | succ n ih =>
    match es, h with
    | [], h => simp [readDistance] at h
    | [_], h => simp [readDistance] at h
    | m :: s :: es, h =>
      simp only [readDistance] at h
      split at h
      case isFalse => cases h
      rename_i hm
      have key : ∀ b, b < 2 → readDistance c d n es (2 * a + b) = .ok (f, es') →
          matchSpace c s (if b = 1 then d.oneSpace else d.zeroSpace) = true →
          ∃ pre g, m :: s :: es = pre ++ es' ∧ f = a * 2 ^ (n + 1) + g ∧ g < 2 ^ (n + 1)
            ∧ Within c .mark (distanceCells d g (n + 1)) pre := by
        intro b hb hr hs
        obtain ⟨pre, g, rfl, rfl, hg, hw⟩ := ih hr
        obtain ⟨h1, h2⟩ := testBit_put n b g hb hg
        refine ⟨m :: s :: pre, b * 2 ^ n + g, rfl, by ring, ?_, ?_⟩
        · have : b * 2 ^ n ≤ 1 * 2 ^ n := Nat.mul_le_mul_right _ (by omega)
          rw [Nat.pow_succ]; omega
        · simp only [distanceCells, h1, decide_eq_true_eq]
          exact ⟨hm, hs, by rw [distanceCells_congr n h2]; exact hw⟩
      split at h
      · rename_i hs
        exact key 1 (by omega) h (by simpa using hs)
      · split at h
        · rename_i hs
          exact key 0 (by omega) h (by simpa using hs)
        · cases h

theorem readDistance_within {n f a : Nat} {plan es : List Nat}
    (hd : ∀ m, matchSpace c m d.zeroSpace = true → matchSpace c m d.oneSpace = false)
    (h : Within c .mark (distanceCells d f n ++ plan) es) :
    ∃ es', readDistance c d n es a = .ok (a * 2 ^ n + f % 2 ^ n, es') ∧ Within c .mark plan es' := by
  induction n generalizing es a with
  | zero => exact ⟨es, by simp [readDistance, Nat.mod_one], h⟩
  | succ n ih =>
    obtain ⟨m, s, rest, rfl, hm, hs, hr⟩ := Within.pair h
    cases hb : f.testBit n
    · simp only [hb, Bool.false_eq_true, if_false] at hs
      obtain ⟨es', he, hw⟩ := ih (a := 2 * a) hr
      refine ⟨es', ?_, hw⟩
      simp only [readDistance, hm, if_true, hd _ hs, Bool.false_eq_true, if_false, hs, he, mod_succ, hb,
        Nat.zero_add]
      congr 2; ring
    · simp only [hb, if_true] at hs
      obtain ⟨es', he, hw⟩ := ih (a := 2 * a + 1) hr
      refine ⟨es', ?_, hw⟩
      simp only [readDistance, hm, if_true, hs, he, mod_succ, hb]
      congr 2; ring

/-- The bit of a WIDTH cell's mark. -/
theorem widthBit_ok {m b : Nat} (h : widthBit c d m = .ok b) :
    b < 2 ∧ matchMark c m (if b = 1 then d.oneMark else d.zeroMark) = true := by
  unfold widthBit at h
  split at h
  · cases h; exact ⟨by omega, by simpa⟩
  · split at h
    · cases h; exact ⟨by omega, by simpa⟩
    · cases h

theorem widthBit_within {m : Nat} {b : Bool}
    (hd : ∀ m, matchMark c m d.zeroMark = true → matchMark c m d.oneMark = false)
    (h : matchMark c m (if b then d.oneMark else d.zeroMark) = true) :
    widthBit c d m = .ok b.toNat := by
  cases b
  · simp only [Bool.false_eq_true, if_false] at h
    simp [widthBit, hd _ h, h]
  · simp only [if_true] at h
    simp [widthBit, h]

/-- The cells a WIDTH reader accepts, and the frame word they make. -/
theorem readWidth_ok {n : Nat} {es es' : List Nat} {a f : Nat}
    (h : readWidth c d n es a = .ok (f, es')) :
    ∃ pre g, es = pre ++ es' ∧ f = a * 2 ^ n + g ∧ g < 2 ^ n ∧ Within c .mark (widthCells d g n) pre := by
  induction n generalizing es a with
  | zero =>
    simp only [readWidth, Except.ok.injEq, Prod.mk.injEq] at h
    exact ⟨[], 0, by simp [h.2], by simp [h.1], by simp, trivial⟩
  | succ n ih =>
    cases n with
    | zero =>
      match es, h with
      | [], h => simp [readWidth] at h
      | m :: es, h =>
        simp only [readWidth] at h
        split at h
        · rename_i b hb
          cases h
          obtain ⟨hb2, hm⟩ := widthBit_ok hb
          obtain ⟨h1, -⟩ := testBit_put 0 b 0 hb2 (by simp)
          simp only [Nat.pow_zero, Nat.mul_one, Nat.add_zero] at h1
          refine ⟨[m], b, rfl, by ring, by omega, ?_⟩
          simp only [widthCells, h1, decide_eq_true_eq, if_true]
          exact ⟨hm, trivial⟩
        · cases h
    | succ k =>
      match es, h with
      | [], h => simp [readWidth] at h
      | [_], h => simp [readWidth] at h
      | m :: s :: es, h =>
        simp only [readWidth] at h
        split at h
        case h_2 => cases h
        rename_i b hb
        split at h
        case isFalse => cases h
        rename_i hs
        obtain ⟨hb2, hm⟩ := widthBit_ok hb
        obtain ⟨pre, g, rfl, rfl, hg, hw⟩ := ih h
        obtain ⟨h1, h2⟩ := testBit_put (k + 1) b g hb2 hg
        refine ⟨m :: s :: pre, b * 2 ^ (k + 1) + g, rfl, by ring, ?_, ?_⟩
        · have : b * 2 ^ (k + 1) ≤ 1 * 2 ^ (k + 1) := Nat.mul_le_mul_right _ (by omega)
          rw [Nat.pow_succ 2 (k + 1)]; omega
        · rw [widthCells, h1, if_neg (Nat.succ_ne_zero k), widthCells_congr (k + 1) h2]
          simp only [decide_eq_true_eq]
          exact ⟨hm, hs, hw⟩

theorem readWidth_within {n f a : Nat} {es : List Nat}
    (hd : ∀ m, matchMark c m d.zeroMark = true → matchMark c m d.oneMark = false)
    (h : Within c .mark (widthCells d f n) es) :
    readWidth c d n es a = .ok (a * 2 ^ n + f % 2 ^ n, []) := by
  induction n generalizing es a with
  | zero =>
    obtain rfl := List.length_eq_zero_iff.1 h.length
    simp [readWidth, Nat.mod_one]
  | succ n ih =>
    cases n with
    | zero =>
      obtain ⟨m, rfl, hm⟩ := Within.last (m := if f.testBit 0 then d.oneMark else d.zeroMark) h
      simp only [readWidth, widthBit_within hd hm, mod_succ, Nat.pow_zero, Nat.mod_one]
      cases f.testBit 0 <;> simp <;> ring
    | succ k =>
      rw [widthCells, if_neg (Nat.succ_ne_zero k)] at h
      obtain ⟨m, s, rest, rfl, hm, hs, hr⟩ := Within.pair h
      simp only [readWidth, widthBit_within hd hm, hs, if_true, ih hr, mod_succ f (k + 1)]
      congr 2
      cases f.testBit (k + 1) <;> simp <;> ring

end Sys2Proof.Machine
end

