-- ==== Sys2Proof/Laws/Memory.lean ====
section
/-! SUPPORT. Memories: a read after a write, and the canonical form is kept by every memory operation. -/

namespace Sys2Proof.Machine

variable {w : Nat}

/-- A write gives its cell the value written and leaves every other cell alone. -/
theorem Memory.find_write (m : Memory w) (i : Nat) (v : BitVec w) (j : Nat) :
    (m.write i v).find j = if j = i then some v else m.find j := by
  induction m with
  | nil => by_cases h : j = i <;> simp [Memory.write, Memory.find, h]
  | cons e m ih =>
    obtain ⟨a, x⟩ := e
    by_cases hlt : i < a
    · by_cases h : j = i <;> simp [Memory.write, Memory.find, hlt, h]
    · by_cases heq : i = a
      · subst heq
        by_cases h : j = i <;> simp [Memory.write, Memory.find, h]
      · by_cases h : j = a
        · subst h
          simp [Memory.write, Memory.find, hlt, heq, Ne.symm heq]
        · simp [Memory.write, Memory.find, hlt, heq, h, ih]

@[simp] theorem Memory.find_write_self (m : Memory w) (i : Nat) (v : BitVec w) :
    (m.write i v).find i = some v := by simp [Memory.find_write]

theorem Memory.find_write_ne (m : Memory w) {i j : Nat} (v : BitVec w) (h : j ≠ i) :
    (m.write i v).find j = m.find j := by simp [Memory.find_write, h]

/-- The canonical form, read from its first entry. -/
theorem Memory.wf_cons (a : Nat) (x : BitVec w) (m : Memory w) :
    Memory.wf ((a, x) :: m) = true ↔ (∀ e ∈ m.head?, a < e.1) ∧ m.wf = true := by
  cases m with
  | nil => simp [Memory.wf]
  | cons e m => obtain ⟨b, y⟩ := e; simp [Memory.wf]

/-- The first index of a memory after a write is the index written or the old first index. -/
theorem Memory.head_write (m : Memory w) (i : Nat) (v : BitVec w) :
    ∀ e ∈ (m.write i v).head?, e.1 = i ∨ ∃ e' ∈ m.head?, e.1 = e'.1 := by
  cases m with
  | nil => simp [Memory.write]
  | cons e m =>
    obtain ⟨a, x⟩ := e
    by_cases hlt : i < a
    · simp [Memory.write, hlt]
    · by_cases heq : i = a <;> simp [Memory.write, hlt, heq]

/-- A write keeps the canonical form. -/
theorem Memory.write_wf (m : Memory w) (i : Nat) (v : BitVec w) (h : m.wf = true) :
    (m.write i v).wf = true := by
  induction m with
  | nil => simp [Memory.write, Memory.wf]
  | cons e m ih =>
    obtain ⟨a, x⟩ := e
    rw [Memory.wf_cons] at h
    by_cases hlt : i < a
    · simp only [Memory.write, hlt, if_true]
      rw [Memory.wf_cons, Memory.wf_cons]
      exact ⟨by simpa using hlt, h⟩
    · by_cases heq : i = a
      · subst heq
        simp only [Memory.write, lt_irrefl, if_false, if_true]
        rw [Memory.wf_cons]
        exact h
      · simp only [Memory.write, hlt, heq, if_false]
        rw [Memory.wf_cons]
        refine ⟨fun e he => ?_, ih h.2⟩
        obtain hi | ⟨e', he', hi⟩ := Memory.head_write m i v e he
        · omega
        · rw [hi]; exact h.1 e' he'

/-- A write below the end of the space keeps every index below it. -/
theorem Memory.write_below (m : Memory w) (i n : Nat) (v : BitVec w) (hi : i < n)
    (h : m.below n = true) : (m.write i v).below n = true := by
  induction m with
  | nil => simp [Memory.write, Memory.below, hi]
  | cons e m ih =>
    obtain ⟨a, x⟩ := e
    simp only [Memory.below, List.all_cons, Bool.and_eq_true, decide_eq_true_eq] at h ih
    by_cases hlt : i < a
    · simp [Memory.write, hlt, Memory.below, hi, h.1]; simpa using h.2
    · by_cases heq : i = a
      · simp [Memory.write, heq, Memory.below]; exact ⟨heq ▸ hi, by simpa using h.2⟩
      · simp only [Memory.write, hlt, heq, if_false, Memory.below, List.all_cons, Bool.and_eq_true,
          decide_eq_true_eq]
        exact ⟨h.1, ih h.2⟩

/-- The memories of the reset state have the canonical form. -/
theorem State.reset_memories_wf :
    State.reset.raw.wf = true ∧ State.reset.snapraw.wf = true ∧ State.reset.txbuf.wf = true
      ∧ State.reset.ptxt.wf = true := by decide

/-- What a written cell reads as. -/
theorem cellOr_write (m : Memory w) (epoch : Nat) (sp : Space) (i : Nat) (v : BitVec w) (j : Nat) :
    cellOr (m.write i v) epoch sp j = if j = i then v else cellOr m epoch sp j := by
  by_cases h : j = i <;> simp [cellOr, Memory.find_write, h]

/-- The copy of RX_DECODE_COPY: the first `n` cells are those of RAW, the others are kept. -/
theorem State.copyCells_find (s : State) (n j : Nat) :
    (s.copyCells n).find j = if j < n then some (s.rawCell j) else s.snapraw.find j := by
  induction n with
  | zero => simp [State.copyCells]
  | succ n ih =>
    simp only [State.copyCells, Memory.find_write, ih]
    by_cases h : j = n
    · simp [h]
    · by_cases h' : j < n
      · simp [h, h', Nat.lt_succ_of_lt h']
      · have : ¬ j < n + 1 := by omega
        simp [h, h', this]

theorem State.copyCells_wf (s : State) (n : Nat) (h : s.snapraw.wf = true) :
    (s.copyCells n).wf = true := by
  induction n with
  | zero => simpa [State.copyCells] using h
  | succ n ih => exact Memory.write_wf _ _ _ ih

theorem State.copyCells_below (s : State) (n k : Nat) (hn : n ≤ k) (h : s.snapraw.below k = true) :
    (s.copyCells n).below k = true := by
  induction n with
  | zero => simpa [State.copyCells] using h
  | succ n ih => exact Memory.write_below _ _ _ _ (by omega) (ih (by omega))

/-- A HOST write of a cell keeps the canonical form of every memory. -/
theorem State.cellStore_wf (s : State) (sp : Space) (i v : Nat)
    (ht : s.txbuf.wf = true) (hp : s.ptxt.wf = true) :
    (s.cellStore sp i v).txbuf.wf = true ∧ (s.cellStore sp i v).ptxt.wf = true := by
  unfold State.cellStore
  split
  · exact ⟨ht, hp⟩
  · cases sp
    · exact ⟨ht, hp⟩
    · exact ⟨ht, hp⟩
    · exact ⟨Memory.write_wf _ _ _ ht, hp⟩
    · exact ⟨ht, Memory.write_wf _ _ _ hp⟩

/-- A TICK keeps the canonical form of RAW. -/
theorem tick_raw_wf (level : Level) (s : State) (h : s.raw.wf = true) : (tick level s).raw.wf = true := by
  unfold tick
  split
  · split
    · unfold tickIdle; split
      · exact h
      · split
        · exact Memory.write_wf _ _ _ h
        · exact h
    · unfold tickActive; split
      · split <;> exact h
      · split
        · exact h
        · exact Memory.write_wf _ _ _ h
    · unfold tickReady; split <;> exact h
  · exact h

end Sys2Proof.Machine
end

