-- ==== Sys2Proof/Laws/Ops.lean ====
section
/-! SUPPORT. For each shared operation, everything it can do, said once. -/

namespace Sys2Proof.Machine

/-- A TICK writes nothing but the sampler's own state (R530). -/
theorem tick_effect (level : Level) (s : State) :
    ∃ rcv cur cnt raw len ovf, tick level s =
      { s with rcvstate := rcv, curLevel := cur, counter := cnt, raw := raw, rawlen := len,
               overflow := ovf } := by
  unfold tick
  split
  · split
    · unfold tickIdle; split
      · exact ⟨_, _, _, _, _, _, rfl⟩
      · split <;> exact ⟨_, _, _, _, _, _, rfl⟩
    · unfold tickActive; split
      · split <;> exact ⟨_, _, _, _, _, _, rfl⟩
      · split <;> exact ⟨_, _, _, _, _, _, rfl⟩
    · unfold tickReady; split <;> exact ⟨_, _, _, _, _, _, rfl⟩
  · exact ⟨_, _, _, _, _, _, rfl⟩

/-- With `rx_enable` 0 a TICK changes nothing at all (R263). -/
theorem tick_disabled (level : Level) (s : State) (h : s.rxEnable = false) : tick level s = s := by
  simp [tick, h]

/-- What a TICK does while enabled, by state and by whether the level changed (R263). -/
theorem tick_enabled (level : Level) (s : State) (h : s.rxEnable = true) :
    (s.rcvstate = .idle ∧ tick level s = tickIdle level s.count)
      ∨ (s.rcvstate = .active ∧ tick level s = tickActive level s.count)
      ∨ (s.rcvstate = .ready ∧ tick level s = tickReady level s.count) := by
  unfold tick
  rw [h]
  cases s.rcvstate <;> simp

/-- A HOST read writes nothing but what the HOST has read and the number of draws (R127). -/
theorem State.deliver_effect (s : State) (v : Option Word) :
    ∃ reads draws, s.deliver v = { s with hostReads := reads, draws := draws } := by
  cases v <;> exact ⟨_, _, rfl⟩

/-- A register write other than CMD writes nothing but the operand registers (R80). -/
theorem State.regStore_effect (s : State) (n v : Nat) :
    ∃ av aa an af ak al, s.regStore n v =
      { s with argValue := av, argAddr := aa, argNbits := an, argFlags := af, argKhz := ak,
               argLen := al } := by
  unfold State.regStore
  split <;> exact ⟨_, _, _, _, _, _, rfl⟩

/-- A cell write writes nothing but TXBUF and PTXT, and those below their ends (R121, R123). -/
theorem State.cellStore_effect (s : State) (sp : Space) (i v : Nat) :
    s.cellStore sp i v = s
      ∨ (sp = .txbuf ∧ i < s.cfg.txCapacity
          ∧ s.cellStore sp i v = { s with txbuf := s.txbuf.write i (BitVec.ofNat 32 v) })
      ∨ (sp = .ptxt ∧ i < s.cfg.ptxtCapacity
          ∧ s.cellStore sp i v = { s with ptxt := s.ptxt.write i (BitVec.ofNat 8 v) }) := by
  unfold State.cellStore
  split
  · exact .inl rfl
  · rename_i h
    cases sp
    · exact .inl rfl
    · exact .inl rfl
    · exact .inr (.inl ⟨rfl, Nat.lt_of_not_le h, rfl⟩)
    · exact .inr (.inr ⟨rfl, Nat.lt_of_not_le h, rfl⟩)

/-- AVAILABLE writes nothing but the two status bits (R307). -/
theorem State.available_effect (s : State) (p : Protocol) :
    ∃ ok err, ¬ (ok = true ∧ err = true) ∧
      s.available p = { s with statusOk := ok, statusCmderr := err } := by
  unfold State.available
  split
  · split <;> exact ⟨_, false, by simp, rfl⟩
  · exact ⟨false, true, by simp, rfl⟩

/-- A protocol send is illegal, or plays its plan (R402). -/
theorem State.send_effect (s : State) (p : Protocol) (legal : Bool) (plan : List Nat) (khz : Nat) :
    (s.send p legal plan khz = s.illegal ∧ ¬ (s.cfg.encEnabled p = true ∧ legal = true))
      ∨ (s.send p legal plan khz = (s.sendRaw plan khz).answer true
          ∧ s.cfg.encEnabled p = true ∧ legal = true) := by
  unfold State.send
  cases h1 : s.cfg.encEnabled p <;> cases legal <;> simp

/-- The parts of the state a command never writes: the parameters, the operand registers, TXBUF, PTXT
(R66, R76), and what is the model's own. -/
def State.SameInputs (s t : State) : Prop :=
  t.cfg = s.cfg ∧ t.argValue = s.argValue ∧ t.argAddr = s.argAddr ∧ t.argNbits = s.argNbits
    ∧ t.argFlags = s.argFlags ∧ t.argKhz = s.argKhz ∧ t.argLen = s.argLen ∧ t.txbuf = s.txbuf
    ∧ t.ptxt = s.ptxt ∧ t.inputs = s.inputs ∧ t.hostReads = s.hostReads ∧ t.draws = s.draws
    ∧ t.epoch = s.epoch

/-- Everything a command can do to a state. -/
inductive State.Effect (s : State) : Instr → State → Prop where
  | answer (i : Instr) (ok err : Bool) (h : ¬ (ok = true ∧ err = true)) :
      Effect s i { s with statusOk := ok, statusCmderr := err }
  | enable : Effect s .rxEnable
      { s with rcvstate := .idle, rawlen := 0, overflow := false, counter := 0, curLevel := .space,
               rxEnable := true, statusOk := true, statusCmderr := false }
  | disable : Effect s .rxDisable { s with rxEnable := false, statusOk := true, statusCmderr := false }
  | resume : Effect s .rxResume
      { s with rcvstate := .idle, rawlen := 0, overflow := false, statusOk := true,
               statusCmderr := false }
  | decode (h : s.isReady = true) : Effect s .rxDecode
      { s with res := s.resultOf s.dispatched, lastTag := s.dispatched.1, statusOk := true,
               statusCmderr := false }
  | copy (h : s.isReady = true) : Effect s .rxDecodeCopy
      { s with snap := s.resultOf s.dispatched, snapraw := s.copyCells s.rawlen.toNat,
               lastTag := s.dispatched.1, statusOk := true, statusCmderr := false }
  | play (i : Instr) (plan : List Nat) (khz : Nat) : Effect s i
      { s with rxEnable := false, txout := s.txout ++ segmentsFrom khz .mark plan, statusOk := true,
               statusCmderr := false }

theorem State.available_shape (s : State) (i : Instr) (p : Protocol) : s.Effect i (s.available p) := by
  obtain ⟨ok, err, h, e⟩ := s.available_effect p
  rw [e]; exact .answer i ok err h

theorem State.send_shape (s : State) (i : Instr) (p : Protocol) (legal : Bool) (plan : List Nat)
    (khz : Nat) : s.Effect i (s.send p legal plan khz) := by
  obtain ⟨e, -⟩ | ⟨e, -⟩ := s.send_effect p legal plan khz
  · rw [e]; exact .answer i false true (by simp)
  · rw [e]; exact .play i plan khz

/-- What a command can do, said once for all commands. -/
theorem exec_effect (i : Instr) (s : State) : ∃ t, exec i s = .next t ∧ s.Effect i t := by
  cases i
  case rxEnable => exact ⟨_, rfl, .enable⟩
  case rxDisable => exact ⟨_, rfl, .disable⟩
  case rxResume => exact ⟨_, rfl, .resume⟩
  case rxDecode =>
    simp only [exec, execRxDecode]
    split
    · rename_i h; exact ⟨_, rfl, .decode h⟩
    · exact ⟨_, rfl, .answer _ false false (by simp)⟩
  case rxDecodeCopy =>
    simp only [exec, execRxDecodeCopy]
    split
    · rename_i h; exact ⟨_, rfl, .copy h⟩
    · exact ⟨_, rfl, .answer _ false false (by simp)⟩
  case sendRaw =>
    simp only [exec, execSendRaw]
    split
    · exact ⟨_, rfl, .play _ _ _⟩
    · exact ⟨_, rfl, .answer _ false true (by simp)⟩
  case sendPronto =>
    simp only [exec, execSendPronto]
    split
    · split
      · exact ⟨_, rfl, .play _ _ _⟩
      · exact ⟨_, rfl, .answer _ false false (by simp)⟩
    · exact ⟨_, rfl, .answer _ false true (by simp)⟩
  case nop => exact ⟨_, rfl, .answer _ true false (by simp)⟩
  case rxIsIdle => exact ⟨_, rfl, .answer _ s.isReady false (by simp)⟩
  case availableHash => exact ⟨_, rfl, .answer _ s.isReady false (by simp)⟩
  all_goals first
    | exact ⟨_, rfl, s.available_shape _ _⟩
    | exact ⟨_, rfl, s.send_shape _ _ _ _ _⟩

end Sys2Proof.Machine
end

