-- ==== Sys2Proof/Laws/PerInstr.lean ====
section
/-! SUPPORT. Statements made per command, one lemma per constructor of Instr. -/

namespace Sys2Proof.Laws.EncodesOneByte

/-- The command has an encoding of exactly one byte, which decodes to it and leaves nothing (R170). -/
def Statement (i : Instr) : Prop := ∃ b, encode i = [b] ∧ decode [b] = .ok (i, [])

theorem nop : Statement .nop := ⟨_, rfl, rfl⟩
theorem rxEnable : Statement .rxEnable := ⟨_, rfl, rfl⟩
theorem rxDisable : Statement .rxDisable := ⟨_, rfl, rfl⟩
theorem rxResume : Statement .rxResume := ⟨_, rfl, rfl⟩
theorem rxIsIdle : Statement .rxIsIdle := ⟨_, rfl, rfl⟩
theorem rxDecode : Statement .rxDecode := ⟨_, rfl, rfl⟩
theorem rxDecodeCopy : Statement .rxDecodeCopy := ⟨_, rfl, rfl⟩
theorem availableHash : Statement .availableHash := ⟨_, rfl, rfl⟩
theorem availableRc5 : Statement .availableRc5 := ⟨_, rfl, rfl⟩
theorem availableRc6 : Statement .availableRc6 := ⟨_, rfl, rfl⟩
theorem availableNec : Statement .availableNec := ⟨_, rfl, rfl⟩
theorem availableSony : Statement .availableSony := ⟨_, rfl, rfl⟩
theorem availablePanasonic : Statement .availablePanasonic := ⟨_, rfl, rfl⟩
theorem availableJvc : Statement .availableJvc := ⟨_, rfl, rfl⟩
theorem availableSamsung : Statement .availableSamsung := ⟨_, rfl, rfl⟩
theorem availableWhynter : Statement .availableWhynter := ⟨_, rfl, rfl⟩
theorem availableAiwa : Statement .availableAiwa := ⟨_, rfl, rfl⟩
theorem availableLg : Statement .availableLg := ⟨_, rfl, rfl⟩
theorem availableSanyo : Statement .availableSanyo := ⟨_, rfl, rfl⟩
theorem availableMitsubishi : Statement .availableMitsubishi := ⟨_, rfl, rfl⟩
theorem availableDenon : Statement .availableDenon := ⟨_, rfl, rfl⟩
theorem sendRaw : Statement .sendRaw := ⟨_, rfl, rfl⟩
theorem sendRc5 : Statement .sendRc5 := ⟨_, rfl, rfl⟩
theorem sendRc6 : Statement .sendRc6 := ⟨_, rfl, rfl⟩
theorem sendNec : Statement .sendNec := ⟨_, rfl, rfl⟩
theorem sendSony : Statement .sendSony := ⟨_, rfl, rfl⟩
theorem sendPanasonic : Statement .sendPanasonic := ⟨_, rfl, rfl⟩
theorem sendJvc : Statement .sendJvc := ⟨_, rfl, rfl⟩
theorem sendSamsung : Statement .sendSamsung := ⟨_, rfl, rfl⟩
theorem sendWhynter : Statement .sendWhynter := ⟨_, rfl, rfl⟩
theorem sendAiwa : Statement .sendAiwa := ⟨_, rfl, rfl⟩
theorem sendLg : Statement .sendLg := ⟨_, rfl, rfl⟩
theorem sendDenon : Statement .sendDenon := ⟨_, rfl, rfl⟩
theorem sendDish : Statement .sendDish := ⟨_, rfl, rfl⟩
theorem sendSharp : Statement .sendSharp := ⟨_, rfl, rfl⟩
theorem sendPronto : Statement .sendPronto := ⟨_, rfl, rfl⟩

end Sys2Proof.Laws.EncodesOneByte
end

