-- ==== Sys2Proof/Laws/State.lean ====
section
/-! SUPPORT. One lemma per field per named update of the state, each true by unfolding, so that no later
proof unfolds a record update. -/

namespace Sys2Proof.Machine

variable (s : State)

@[simp] theorem State.answer_cfg (ok : Bool) : (s.answer ok).cfg = s.cfg := rfl
@[simp] theorem State.answer_rxEnable (ok : Bool) : (s.answer ok).rxEnable = s.rxEnable := rfl
@[simp] theorem State.answer_rcvstate (ok : Bool) : (s.answer ok).rcvstate = s.rcvstate := rfl
@[simp] theorem State.answer_curLevel (ok : Bool) : (s.answer ok).curLevel = s.curLevel := rfl
@[simp] theorem State.answer_counter (ok : Bool) : (s.answer ok).counter = s.counter := rfl
@[simp] theorem State.answer_raw (ok : Bool) : (s.answer ok).raw = s.raw := rfl
@[simp] theorem State.answer_rawlen (ok : Bool) : (s.answer ok).rawlen = s.rawlen := rfl
@[simp] theorem State.answer_overflow (ok : Bool) : (s.answer ok).overflow = s.overflow := rfl
@[simp] theorem State.answer_res (ok : Bool) : (s.answer ok).res = s.res := rfl
@[simp] theorem State.answer_snap (ok : Bool) : (s.answer ok).snap = s.snap := rfl
@[simp] theorem State.answer_snapraw (ok : Bool) : (s.answer ok).snapraw = s.snapraw := rfl
@[simp] theorem State.answer_lastTag (ok : Bool) : (s.answer ok).lastTag = s.lastTag := rfl
@[simp] theorem State.answer_argValue (ok : Bool) : (s.answer ok).argValue = s.argValue := rfl
@[simp] theorem State.answer_argAddr (ok : Bool) : (s.answer ok).argAddr = s.argAddr := rfl
@[simp] theorem State.answer_argNbits (ok : Bool) : (s.answer ok).argNbits = s.argNbits := rfl
@[simp] theorem State.answer_argFlags (ok : Bool) : (s.answer ok).argFlags = s.argFlags := rfl
@[simp] theorem State.answer_argKhz (ok : Bool) : (s.answer ok).argKhz = s.argKhz := rfl
@[simp] theorem State.answer_argLen (ok : Bool) : (s.answer ok).argLen = s.argLen := rfl
@[simp] theorem State.answer_statusOk (ok : Bool) : (s.answer ok).statusOk = ok := rfl
@[simp] theorem State.answer_statusCmderr (ok : Bool) : (s.answer ok).statusCmderr = false := rfl
@[simp] theorem State.answer_txbuf (ok : Bool) : (s.answer ok).txbuf = s.txbuf := rfl
@[simp] theorem State.answer_ptxt (ok : Bool) : (s.answer ok).ptxt = s.ptxt := rfl
@[simp] theorem State.answer_txout (ok : Bool) : (s.answer ok).txout = s.txout := rfl
@[simp] theorem State.answer_inputs (ok : Bool) : (s.answer ok).inputs = s.inputs := rfl
@[simp] theorem State.answer_hostReads (ok : Bool) : (s.answer ok).hostReads = s.hostReads := rfl
@[simp] theorem State.answer_draws (ok : Bool) : (s.answer ok).draws = s.draws := rfl
@[simp] theorem State.answer_epoch (ok : Bool) : (s.answer ok).epoch = s.epoch := rfl

@[simp] theorem State.illegal_cfg : (s.illegal).cfg = s.cfg := rfl
@[simp] theorem State.illegal_rxEnable : (s.illegal).rxEnable = s.rxEnable := rfl
@[simp] theorem State.illegal_rcvstate : (s.illegal).rcvstate = s.rcvstate := rfl
@[simp] theorem State.illegal_curLevel : (s.illegal).curLevel = s.curLevel := rfl
@[simp] theorem State.illegal_counter : (s.illegal).counter = s.counter := rfl
@[simp] theorem State.illegal_raw : (s.illegal).raw = s.raw := rfl
@[simp] theorem State.illegal_rawlen : (s.illegal).rawlen = s.rawlen := rfl
@[simp] theorem State.illegal_overflow : (s.illegal).overflow = s.overflow := rfl
@[simp] theorem State.illegal_res : (s.illegal).res = s.res := rfl
@[simp] theorem State.illegal_snap : (s.illegal).snap = s.snap := rfl
@[simp] theorem State.illegal_snapraw : (s.illegal).snapraw = s.snapraw := rfl
@[simp] theorem State.illegal_lastTag : (s.illegal).lastTag = s.lastTag := rfl
@[simp] theorem State.illegal_argValue : (s.illegal).argValue = s.argValue := rfl
@[simp] theorem State.illegal_argAddr : (s.illegal).argAddr = s.argAddr := rfl
@[simp] theorem State.illegal_argNbits : (s.illegal).argNbits = s.argNbits := rfl
@[simp] theorem State.illegal_argFlags : (s.illegal).argFlags = s.argFlags := rfl
@[simp] theorem State.illegal_argKhz : (s.illegal).argKhz = s.argKhz := rfl
@[simp] theorem State.illegal_argLen : (s.illegal).argLen = s.argLen := rfl
@[simp] theorem State.illegal_statusOk : (s.illegal).statusOk = false := rfl
@[simp] theorem State.illegal_statusCmderr : (s.illegal).statusCmderr = true := rfl
@[simp] theorem State.illegal_txbuf : (s.illegal).txbuf = s.txbuf := rfl
@[simp] theorem State.illegal_ptxt : (s.illegal).ptxt = s.ptxt := rfl
@[simp] theorem State.illegal_txout : (s.illegal).txout = s.txout := rfl
@[simp] theorem State.illegal_inputs : (s.illegal).inputs = s.inputs := rfl
@[simp] theorem State.illegal_hostReads : (s.illegal).hostReads = s.hostReads := rfl
@[simp] theorem State.illegal_draws : (s.illegal).draws = s.draws := rfl
@[simp] theorem State.illegal_epoch : (s.illegal).epoch = s.epoch := rfl

@[simp] theorem State.count_cfg : (s.count).cfg = s.cfg := rfl
@[simp] theorem State.count_rxEnable : (s.count).rxEnable = s.rxEnable := rfl
@[simp] theorem State.count_rcvstate : (s.count).rcvstate = s.rcvstate := rfl
@[simp] theorem State.count_curLevel : (s.count).curLevel = s.curLevel := rfl
@[simp] theorem State.count_counter : (s.count).counter = BitVec.ofNat 16 (satTicks s.cfg (s.counter.toNat + 1)) := rfl
@[simp] theorem State.count_raw : (s.count).raw = s.raw := rfl
@[simp] theorem State.count_rawlen : (s.count).rawlen = s.rawlen := rfl
@[simp] theorem State.count_overflow : (s.count).overflow = s.overflow := rfl
@[simp] theorem State.count_res : (s.count).res = s.res := rfl
@[simp] theorem State.count_snap : (s.count).snap = s.snap := rfl
@[simp] theorem State.count_snapraw : (s.count).snapraw = s.snapraw := rfl
@[simp] theorem State.count_lastTag : (s.count).lastTag = s.lastTag := rfl
@[simp] theorem State.count_argValue : (s.count).argValue = s.argValue := rfl
@[simp] theorem State.count_argAddr : (s.count).argAddr = s.argAddr := rfl
@[simp] theorem State.count_argNbits : (s.count).argNbits = s.argNbits := rfl
@[simp] theorem State.count_argFlags : (s.count).argFlags = s.argFlags := rfl
@[simp] theorem State.count_argKhz : (s.count).argKhz = s.argKhz := rfl
@[simp] theorem State.count_argLen : (s.count).argLen = s.argLen := rfl
@[simp] theorem State.count_statusOk : (s.count).statusOk = s.statusOk := rfl
@[simp] theorem State.count_statusCmderr : (s.count).statusCmderr = s.statusCmderr := rfl
@[simp] theorem State.count_txbuf : (s.count).txbuf = s.txbuf := rfl
@[simp] theorem State.count_ptxt : (s.count).ptxt = s.ptxt := rfl
@[simp] theorem State.count_txout : (s.count).txout = s.txout := rfl
@[simp] theorem State.count_inputs : (s.count).inputs = s.inputs := rfl
@[simp] theorem State.count_hostReads : (s.count).hostReads = s.hostReads := rfl
@[simp] theorem State.count_draws : (s.count).draws = s.draws := rfl
@[simp] theorem State.count_epoch : (s.count).epoch = s.epoch := rfl

@[simp] theorem State.edge_cfg (level : Level) : (s.edge level).cfg = s.cfg := rfl
@[simp] theorem State.edge_rxEnable (level : Level) : (s.edge level).rxEnable = s.rxEnable := rfl
@[simp] theorem State.edge_rcvstate (level : Level) : (s.edge level).rcvstate = s.rcvstate := rfl
@[simp] theorem State.edge_curLevel (level : Level) : (s.edge level).curLevel = level := rfl
@[simp] theorem State.edge_counter (level : Level) : (s.edge level).counter = 0 := rfl
@[simp] theorem State.edge_raw (level : Level) : (s.edge level).raw = s.raw := rfl
@[simp] theorem State.edge_rawlen (level : Level) : (s.edge level).rawlen = s.rawlen := rfl
@[simp] theorem State.edge_overflow (level : Level) : (s.edge level).overflow = s.overflow := rfl
@[simp] theorem State.edge_res (level : Level) : (s.edge level).res = s.res := rfl
@[simp] theorem State.edge_snap (level : Level) : (s.edge level).snap = s.snap := rfl
@[simp] theorem State.edge_snapraw (level : Level) : (s.edge level).snapraw = s.snapraw := rfl
@[simp] theorem State.edge_lastTag (level : Level) : (s.edge level).lastTag = s.lastTag := rfl
@[simp] theorem State.edge_argValue (level : Level) : (s.edge level).argValue = s.argValue := rfl
@[simp] theorem State.edge_argAddr (level : Level) : (s.edge level).argAddr = s.argAddr := rfl
@[simp] theorem State.edge_argNbits (level : Level) : (s.edge level).argNbits = s.argNbits := rfl
@[simp] theorem State.edge_argFlags (level : Level) : (s.edge level).argFlags = s.argFlags := rfl
@[simp] theorem State.edge_argKhz (level : Level) : (s.edge level).argKhz = s.argKhz := rfl
@[simp] theorem State.edge_argLen (level : Level) : (s.edge level).argLen = s.argLen := rfl
@[simp] theorem State.edge_statusOk (level : Level) : (s.edge level).statusOk = s.statusOk := rfl
@[simp] theorem State.edge_statusCmderr (level : Level) : (s.edge level).statusCmderr = s.statusCmderr := rfl
@[simp] theorem State.edge_txbuf (level : Level) : (s.edge level).txbuf = s.txbuf := rfl
@[simp] theorem State.edge_ptxt (level : Level) : (s.edge level).ptxt = s.ptxt := rfl
@[simp] theorem State.edge_txout (level : Level) : (s.edge level).txout = s.txout := rfl
@[simp] theorem State.edge_inputs (level : Level) : (s.edge level).inputs = s.inputs := rfl
@[simp] theorem State.edge_hostReads (level : Level) : (s.edge level).hostReads = s.hostReads := rfl
@[simp] theorem State.edge_draws (level : Level) : (s.edge level).draws = s.draws := rfl
@[simp] theorem State.edge_epoch (level : Level) : (s.edge level).epoch = s.epoch := rfl

@[simp] theorem State.push_cfg : (s.push).cfg = s.cfg := rfl
@[simp] theorem State.push_rxEnable : (s.push).rxEnable = s.rxEnable := rfl
@[simp] theorem State.push_rcvstate : (s.push).rcvstate = s.rcvstate := rfl
@[simp] theorem State.push_curLevel : (s.push).curLevel = s.curLevel := rfl
@[simp] theorem State.push_counter : (s.push).counter = s.counter := rfl
@[simp] theorem State.push_raw : (s.push).raw = Memory.write s.raw s.rawlen.toNat s.counter := rfl
@[simp] theorem State.push_rawlen : (s.push).rawlen = s.rawlen + 1 := rfl
@[simp] theorem State.push_overflow : (s.push).overflow = s.overflow := rfl
@[simp] theorem State.push_res : (s.push).res = s.res := rfl
@[simp] theorem State.push_snap : (s.push).snap = s.snap := rfl
@[simp] theorem State.push_snapraw : (s.push).snapraw = s.snapraw := rfl
@[simp] theorem State.push_lastTag : (s.push).lastTag = s.lastTag := rfl
@[simp] theorem State.push_argValue : (s.push).argValue = s.argValue := rfl
@[simp] theorem State.push_argAddr : (s.push).argAddr = s.argAddr := rfl
@[simp] theorem State.push_argNbits : (s.push).argNbits = s.argNbits := rfl
@[simp] theorem State.push_argFlags : (s.push).argFlags = s.argFlags := rfl
@[simp] theorem State.push_argKhz : (s.push).argKhz = s.argKhz := rfl
@[simp] theorem State.push_argLen : (s.push).argLen = s.argLen := rfl
@[simp] theorem State.push_statusOk : (s.push).statusOk = s.statusOk := rfl
@[simp] theorem State.push_statusCmderr : (s.push).statusCmderr = s.statusCmderr := rfl
@[simp] theorem State.push_txbuf : (s.push).txbuf = s.txbuf := rfl
@[simp] theorem State.push_ptxt : (s.push).ptxt = s.ptxt := rfl
@[simp] theorem State.push_txout : (s.push).txout = s.txout := rfl
@[simp] theorem State.push_inputs : (s.push).inputs = s.inputs := rfl
@[simp] theorem State.push_hostReads : (s.push).hostReads = s.hostReads := rfl
@[simp] theorem State.push_draws : (s.push).draws = s.draws := rfl
@[simp] theorem State.push_epoch : (s.push).epoch = s.epoch := rfl

@[simp] theorem State.startCapture_cfg : (s.startCapture).cfg = s.cfg := rfl
@[simp] theorem State.startCapture_rxEnable : (s.startCapture).rxEnable = s.rxEnable := rfl
@[simp] theorem State.startCapture_rcvstate : (s.startCapture).rcvstate = .active := rfl
@[simp] theorem State.startCapture_curLevel : (s.startCapture).curLevel = s.curLevel := rfl
@[simp] theorem State.startCapture_counter : (s.startCapture).counter = s.counter := rfl
@[simp] theorem State.startCapture_raw : (s.startCapture).raw = Memory.write s.raw 0 s.counter := rfl
@[simp] theorem State.startCapture_rawlen : (s.startCapture).rawlen = 1 := rfl
@[simp] theorem State.startCapture_overflow : (s.startCapture).overflow = s.overflow := rfl
@[simp] theorem State.startCapture_res : (s.startCapture).res = s.res := rfl
@[simp] theorem State.startCapture_snap : (s.startCapture).snap = s.snap := rfl
@[simp] theorem State.startCapture_snapraw : (s.startCapture).snapraw = s.snapraw := rfl
@[simp] theorem State.startCapture_lastTag : (s.startCapture).lastTag = s.lastTag := rfl
@[simp] theorem State.startCapture_argValue : (s.startCapture).argValue = s.argValue := rfl
@[simp] theorem State.startCapture_argAddr : (s.startCapture).argAddr = s.argAddr := rfl
@[simp] theorem State.startCapture_argNbits : (s.startCapture).argNbits = s.argNbits := rfl
@[simp] theorem State.startCapture_argFlags : (s.startCapture).argFlags = s.argFlags := rfl
@[simp] theorem State.startCapture_argKhz : (s.startCapture).argKhz = s.argKhz := rfl
@[simp] theorem State.startCapture_argLen : (s.startCapture).argLen = s.argLen := rfl
@[simp] theorem State.startCapture_statusOk : (s.startCapture).statusOk = s.statusOk := rfl
@[simp] theorem State.startCapture_statusCmderr : (s.startCapture).statusCmderr = s.statusCmderr := rfl
@[simp] theorem State.startCapture_txbuf : (s.startCapture).txbuf = s.txbuf := rfl
@[simp] theorem State.startCapture_ptxt : (s.startCapture).ptxt = s.ptxt := rfl
@[simp] theorem State.startCapture_txout : (s.startCapture).txout = s.txout := rfl
@[simp] theorem State.startCapture_inputs : (s.startCapture).inputs = s.inputs := rfl
@[simp] theorem State.startCapture_hostReads : (s.startCapture).hostReads = s.hostReads := rfl
@[simp] theorem State.startCapture_draws : (s.startCapture).draws = s.draws := rfl
@[simp] theorem State.startCapture_epoch : (s.startCapture).epoch = s.epoch := rfl

@[simp] theorem State.overflowed_cfg : (s.overflowed).cfg = s.cfg := rfl
@[simp] theorem State.overflowed_rxEnable : (s.overflowed).rxEnable = s.rxEnable := rfl
@[simp] theorem State.overflowed_rcvstate : (s.overflowed).rcvstate = .ready := rfl
@[simp] theorem State.overflowed_curLevel : (s.overflowed).curLevel = s.curLevel := rfl
@[simp] theorem State.overflowed_counter : (s.overflowed).counter = s.counter := rfl
@[simp] theorem State.overflowed_raw : (s.overflowed).raw = s.raw := rfl
@[simp] theorem State.overflowed_rawlen : (s.overflowed).rawlen = s.rawlen := rfl
@[simp] theorem State.overflowed_overflow : (s.overflowed).overflow = true := rfl
@[simp] theorem State.overflowed_res : (s.overflowed).res = s.res := rfl
@[simp] theorem State.overflowed_snap : (s.overflowed).snap = s.snap := rfl
@[simp] theorem State.overflowed_snapraw : (s.overflowed).snapraw = s.snapraw := rfl
@[simp] theorem State.overflowed_lastTag : (s.overflowed).lastTag = s.lastTag := rfl
@[simp] theorem State.overflowed_argValue : (s.overflowed).argValue = s.argValue := rfl
@[simp] theorem State.overflowed_argAddr : (s.overflowed).argAddr = s.argAddr := rfl
@[simp] theorem State.overflowed_argNbits : (s.overflowed).argNbits = s.argNbits := rfl
@[simp] theorem State.overflowed_argFlags : (s.overflowed).argFlags = s.argFlags := rfl
@[simp] theorem State.overflowed_argKhz : (s.overflowed).argKhz = s.argKhz := rfl
@[simp] theorem State.overflowed_argLen : (s.overflowed).argLen = s.argLen := rfl
@[simp] theorem State.overflowed_statusOk : (s.overflowed).statusOk = s.statusOk := rfl
@[simp] theorem State.overflowed_statusCmderr : (s.overflowed).statusCmderr = s.statusCmderr := rfl
@[simp] theorem State.overflowed_txbuf : (s.overflowed).txbuf = s.txbuf := rfl
@[simp] theorem State.overflowed_ptxt : (s.overflowed).ptxt = s.ptxt := rfl
@[simp] theorem State.overflowed_txout : (s.overflowed).txout = s.txout := rfl
@[simp] theorem State.overflowed_inputs : (s.overflowed).inputs = s.inputs := rfl
@[simp] theorem State.overflowed_hostReads : (s.overflowed).hostReads = s.hostReads := rfl
@[simp] theorem State.overflowed_draws : (s.overflowed).draws = s.draws := rfl
@[simp] theorem State.overflowed_epoch : (s.overflowed).epoch = s.epoch := rfl

@[simp] theorem State.emptied_cfg : (s.emptied).cfg = s.cfg := rfl
@[simp] theorem State.emptied_rxEnable : (s.emptied).rxEnable = s.rxEnable := rfl
@[simp] theorem State.emptied_rcvstate : (s.emptied).rcvstate = .idle := rfl
@[simp] theorem State.emptied_curLevel : (s.emptied).curLevel = s.curLevel := rfl
@[simp] theorem State.emptied_counter : (s.emptied).counter = s.counter := rfl
@[simp] theorem State.emptied_raw : (s.emptied).raw = s.raw := rfl
@[simp] theorem State.emptied_rawlen : (s.emptied).rawlen = 0 := rfl
@[simp] theorem State.emptied_overflow : (s.emptied).overflow = false := rfl
@[simp] theorem State.emptied_res : (s.emptied).res = s.res := rfl
@[simp] theorem State.emptied_snap : (s.emptied).snap = s.snap := rfl
@[simp] theorem State.emptied_snapraw : (s.emptied).snapraw = s.snapraw := rfl
@[simp] theorem State.emptied_lastTag : (s.emptied).lastTag = s.lastTag := rfl
@[simp] theorem State.emptied_argValue : (s.emptied).argValue = s.argValue := rfl
@[simp] theorem State.emptied_argAddr : (s.emptied).argAddr = s.argAddr := rfl
@[simp] theorem State.emptied_argNbits : (s.emptied).argNbits = s.argNbits := rfl
@[simp] theorem State.emptied_argFlags : (s.emptied).argFlags = s.argFlags := rfl
@[simp] theorem State.emptied_argKhz : (s.emptied).argKhz = s.argKhz := rfl
@[simp] theorem State.emptied_argLen : (s.emptied).argLen = s.argLen := rfl
@[simp] theorem State.emptied_statusOk : (s.emptied).statusOk = s.statusOk := rfl
@[simp] theorem State.emptied_statusCmderr : (s.emptied).statusCmderr = s.statusCmderr := rfl
@[simp] theorem State.emptied_txbuf : (s.emptied).txbuf = s.txbuf := rfl
@[simp] theorem State.emptied_ptxt : (s.emptied).ptxt = s.ptxt := rfl
@[simp] theorem State.emptied_txout : (s.emptied).txout = s.txout := rfl
@[simp] theorem State.emptied_inputs : (s.emptied).inputs = s.inputs := rfl
@[simp] theorem State.emptied_hostReads : (s.emptied).hostReads = s.hostReads := rfl
@[simp] theorem State.emptied_draws : (s.emptied).draws = s.draws := rfl
@[simp] theorem State.emptied_epoch : (s.emptied).epoch = s.epoch := rfl

@[simp] theorem State.sendRaw_cfg (plan : List Nat) (khz : Nat) : (s.sendRaw plan khz).cfg = s.cfg := rfl
@[simp] theorem State.sendRaw_rxEnable (plan : List Nat) (khz : Nat) : (s.sendRaw plan khz).rxEnable = false := rfl
@[simp] theorem State.sendRaw_rcvstate (plan : List Nat) (khz : Nat) : (s.sendRaw plan khz).rcvstate = s.rcvstate := rfl
@[simp] theorem State.sendRaw_curLevel (plan : List Nat) (khz : Nat) : (s.sendRaw plan khz).curLevel = s.curLevel := rfl
@[simp] theorem State.sendRaw_counter (plan : List Nat) (khz : Nat) : (s.sendRaw plan khz).counter = s.counter := rfl
@[simp] theorem State.sendRaw_raw (plan : List Nat) (khz : Nat) : (s.sendRaw plan khz).raw = s.raw := rfl
@[simp] theorem State.sendRaw_rawlen (plan : List Nat) (khz : Nat) : (s.sendRaw plan khz).rawlen = s.rawlen := rfl
@[simp] theorem State.sendRaw_overflow (plan : List Nat) (khz : Nat) : (s.sendRaw plan khz).overflow = s.overflow := rfl
@[simp] theorem State.sendRaw_res (plan : List Nat) (khz : Nat) : (s.sendRaw plan khz).res = s.res := rfl
@[simp] theorem State.sendRaw_snap (plan : List Nat) (khz : Nat) : (s.sendRaw plan khz).snap = s.snap := rfl
@[simp] theorem State.sendRaw_snapraw (plan : List Nat) (khz : Nat) : (s.sendRaw plan khz).snapraw = s.snapraw := rfl
@[simp] theorem State.sendRaw_lastTag (plan : List Nat) (khz : Nat) : (s.sendRaw plan khz).lastTag = s.lastTag := rfl
@[simp] theorem State.sendRaw_argValue (plan : List Nat) (khz : Nat) : (s.sendRaw plan khz).argValue = s.argValue := rfl
@[simp] theorem State.sendRaw_argAddr (plan : List Nat) (khz : Nat) : (s.sendRaw plan khz).argAddr = s.argAddr := rfl
@[simp] theorem State.sendRaw_argNbits (plan : List Nat) (khz : Nat) : (s.sendRaw plan khz).argNbits = s.argNbits := rfl
@[simp] theorem State.sendRaw_argFlags (plan : List Nat) (khz : Nat) : (s.sendRaw plan khz).argFlags = s.argFlags := rfl
@[simp] theorem State.sendRaw_argKhz (plan : List Nat) (khz : Nat) : (s.sendRaw plan khz).argKhz = s.argKhz := rfl
@[simp] theorem State.sendRaw_argLen (plan : List Nat) (khz : Nat) : (s.sendRaw plan khz).argLen = s.argLen := rfl
@[simp] theorem State.sendRaw_statusOk (plan : List Nat) (khz : Nat) : (s.sendRaw plan khz).statusOk = s.statusOk := rfl
@[simp] theorem State.sendRaw_statusCmderr (plan : List Nat) (khz : Nat) : (s.sendRaw plan khz).statusCmderr = s.statusCmderr := rfl
@[simp] theorem State.sendRaw_txbuf (plan : List Nat) (khz : Nat) : (s.sendRaw plan khz).txbuf = s.txbuf := rfl
@[simp] theorem State.sendRaw_ptxt (plan : List Nat) (khz : Nat) : (s.sendRaw plan khz).ptxt = s.ptxt := rfl
@[simp] theorem State.sendRaw_txout (plan : List Nat) (khz : Nat) : (s.sendRaw plan khz).txout = s.txout ++ segmentsFrom khz .mark plan := rfl
@[simp] theorem State.sendRaw_inputs (plan : List Nat) (khz : Nat) : (s.sendRaw plan khz).inputs = s.inputs := rfl
@[simp] theorem State.sendRaw_hostReads (plan : List Nat) (khz : Nat) : (s.sendRaw plan khz).hostReads = s.hostReads := rfl
@[simp] theorem State.sendRaw_draws (plan : List Nat) (khz : Nat) : (s.sendRaw plan khz).draws = s.draws := rfl
@[simp] theorem State.sendRaw_epoch (plan : List Nat) (khz : Nat) : (s.sendRaw plan khz).epoch = s.epoch := rfl

@[simp] theorem State.afterRst_cfg : s.afterRst.cfg = s.cfg := rfl
@[simp] theorem State.afterRst_inputs : s.afterRst.inputs = s.inputs := rfl
@[simp] theorem State.afterRst_hostReads : s.afterRst.hostReads = s.hostReads := rfl
@[simp] theorem State.afterRst_draws : s.afterRst.draws = s.draws := rfl
@[simp] theorem State.afterRst_epoch : s.afterRst.epoch = s.epoch + 1 := rfl
@[simp] theorem State.afterRst_rxEnable : s.afterRst.rxEnable = State.reset.rxEnable := rfl
@[simp] theorem State.afterRst_rcvstate : s.afterRst.rcvstate = State.reset.rcvstate := rfl
@[simp] theorem State.afterRst_curLevel : s.afterRst.curLevel = State.reset.curLevel := rfl
@[simp] theorem State.afterRst_counter : s.afterRst.counter = State.reset.counter := rfl
@[simp] theorem State.afterRst_raw : s.afterRst.raw = State.reset.raw := rfl
@[simp] theorem State.afterRst_rawlen : s.afterRst.rawlen = State.reset.rawlen := rfl
@[simp] theorem State.afterRst_overflow : s.afterRst.overflow = State.reset.overflow := rfl
@[simp] theorem State.afterRst_res : s.afterRst.res = State.reset.res := rfl
@[simp] theorem State.afterRst_snap : s.afterRst.snap = State.reset.snap := rfl
@[simp] theorem State.afterRst_snapraw : s.afterRst.snapraw = State.reset.snapraw := rfl
@[simp] theorem State.afterRst_lastTag : s.afterRst.lastTag = State.reset.lastTag := rfl
@[simp] theorem State.afterRst_argValue : s.afterRst.argValue = State.reset.argValue := rfl
@[simp] theorem State.afterRst_argAddr : s.afterRst.argAddr = State.reset.argAddr := rfl
@[simp] theorem State.afterRst_argNbits : s.afterRst.argNbits = State.reset.argNbits := rfl
@[simp] theorem State.afterRst_argFlags : s.afterRst.argFlags = State.reset.argFlags := rfl
@[simp] theorem State.afterRst_argKhz : s.afterRst.argKhz = State.reset.argKhz := rfl
@[simp] theorem State.afterRst_argLen : s.afterRst.argLen = State.reset.argLen := rfl
@[simp] theorem State.afterRst_statusOk : s.afterRst.statusOk = State.reset.statusOk := rfl
@[simp] theorem State.afterRst_statusCmderr : s.afterRst.statusCmderr = State.reset.statusCmderr := rfl
@[simp] theorem State.afterRst_txbuf : s.afterRst.txbuf = State.reset.txbuf := rfl
@[simp] theorem State.afterRst_ptxt : s.afterRst.ptxt = State.reset.ptxt := rfl
@[simp] theorem State.afterRst_txout : s.afterRst.txout = State.reset.txout := rfl

end Sys2Proof.Machine
end

