-- ==== Sys2Proof/Laws/Step.lean ====
section
/-! SUPPORT. What one step can do, said once: wait, apply an event, run a command, or answer an illegal byte. -/

namespace Sys2Proof.Machine

/-- The state a step starts its event from: the event is no longer to come. -/
abbrev State.popped (s : State) (rest : List Input) : State := { s with inputs := rest }

theorem step_wait (s : State) (h : s.inputs = []) : step s = .next s := by simp [step, h]

theorem step_event (s : State) (e : Input) (rest : List Input) (h : s.inputs = e :: rest)
    (hf : fetchCommand e = none) : step s = .next (applyInput (s.popped rest) e) := by
  simp [step, h, hf, State.popped]

theorem step_command (s : State) (v : Nat) (rest : List Input) (h : s.inputs = .regWrite 0 v :: rest) :
    step s = stepCommand [BitVec.ofNat 8 v] (s.popped rest) := by
  simp [step, h, fetchCommand, State.popped]

theorem stepCommand_ok (bytes : List Byte) (s : State) (i : Instr) (more : List Byte)
    (h : decode bytes = .ok (i, more)) : stepCommand bytes s = exec i s := by
  simp [stepCommand, h]

theorem stepCommand_illegal (bytes : List Byte) (s : State) (e : Illegal)
    (h : decode bytes = .error e) : stepCommand bytes s = .next s.illegal := by
  simp [stepCommand, h]

/-- The cases of a step. -/
inductive State.Stepped (s : State) : State → Prop where
  | wait (h : s.inputs = []) : Stepped s s
  | event (e : Input) (rest : List Input) (h : s.inputs = e :: rest) (hf : fetchCommand e = none) :
      Stepped s (applyInput (s.popped rest) e)
  | command (v : Nat) (rest : List Input) (h : s.inputs = .regWrite 0 v :: rest) (i : Instr)
      (hd : decode [BitVec.ofNat 8 v] = .ok (i, [])) (t : State) (he : exec i (s.popped rest) = .next t)
      (eff : (s.popped rest).Effect i t) : Stepped s t
  | illegal (v : Nat) (rest : List Input) (h : s.inputs = .regWrite 0 v :: rest) (e : Illegal)
      (hd : decode [BitVec.ofNat 8 v] = .error e) : Stepped s (s.popped rest).illegal

/-- An event carries a command exactly where it writes CMD (R124). -/
theorem fetchCommand_some (e : Input) (bytes : List Byte) (h : fetchCommand e = some bytes) :
    ∃ v, e = .regWrite 0 v ∧ bytes = [BitVec.ofNat 8 v] := by
  cases e <;> simp [fetchCommand] at h
  case regWrite n v => exact ⟨v, by rw [h.1], h.2.symm⟩

/-- A byte that decodes leaves nothing over: a command is one byte (R170). -/
theorem decode_single (b : Byte) (i : Instr) (more : List Byte) (h : decode [b] = .ok (i, more)) :
    more = [] := by
  simp only [decode] at h
  split at h <;> simp_all

/-- Every step answers a next state, and this is how it came about. -/
theorem step_cases (s : State) : ∃ t, step s = .next t ∧ s.Stepped t := by
  cases h : s.inputs with
  | nil => exact ⟨s, step_wait s h, .wait h⟩
  | cons e rest =>
    cases hf : fetchCommand e with
    | none => exact ⟨_, step_event s e rest h hf, .event e rest h hf⟩
    | some bytes =>
      obtain ⟨v, rfl, rfl⟩ := fetchCommand_some e bytes hf
      rw [step_command s v rest h]
      cases hd : decode [BitVec.ofNat 8 v] with
      | error err => exact ⟨_, stepCommand_illegal _ _ err hd, .illegal v rest h err hd⟩
      | ok im =>
        obtain ⟨i, more⟩ := im
        obtain rfl := decode_single _ _ _ hd
        obtain ⟨t, he, eff⟩ := exec_effect i (s.popped rest)
        exact ⟨t, by rw [stepCommand_ok _ _ i _ hd, he], .command v rest h i hd t he eff⟩

/-- The cases of a step, for the next state it answered. -/
theorem step_inv {s t : State} (h : step s = .next t) : s.Stepped t := by
  obtain ⟨t', h', c⟩ := step_cases s
  rw [h] at h'
  cases h'
  exact c

end Sys2Proof.Machine
end

