-- ==== Sys2Proof/Tests/Slice0.lean ====
section
/-! SUPPORT. The model's own tests: the checks of WellFormed refuse what they should, every command's byte is
written out from R171 to R173, one small step per command with the numbers of spec/95_test_vectors.md, and a
witness for the hypotheses of each statement. -/

namespace Sys2Proof.Tests

set_option maxRecDepth 20000

open Sys2Proof Sys2Proof.Machine

/-! Helpers: small states and what a step gave. -/

/-- A RAW, SNAPRAW or TXBUF memory that holds a list from index 0 on. -/
def cellsOf (w : Nat) (es : List Nat) : Memory w :=
  (List.range es.length).zip (es.map fun e => BitVec.ofNat w e)

/-- READY, armed, with this capture. -/
def ready (es : List Nat) : State :=
  { State.reset with
    rxEnable := true, rcvstate := .ready, raw := cellsOf 16 es, rawlen := BitVec.ofNat 16 es.length }

/-- ACTIVE in a mark or a space, with this capture so far and this count. -/
def active (level : Level) (counter : Half) (es : List Nat) : State :=
  { ready es with rcvstate := .active, curLevel := level, counter := counter }

/-- Reset but for the operand registers of a protocol SEND. -/
def operands (value : Word) (addr : Half) (nbits : Byte) : State :=
  { State.reset with argValue := value, argAddr := addr, argNbits := nbits }

/-- Reset but for a Pronto text and the two flags. -/
def pronto (text : List Nat) (flags : BitVec 2) : State :=
  { State.reset with
    ptxt := cellsOf 8 text, argLen := BitVec.ofNat 16 text.length, argFlags := flags }

/-- The state after a command. -/
def after (i : Instr) (s : State) : State :=
  match exec i s with
  | .next t => t
  | .fault _ => s
  | .refused _ => s

/-- The state after the event `e`. -/
def afterEvent (e : Input) (s : State) : State :=
  match step { s with inputs := [e] } with
  | .next t => t
  | .fault _ => s
  | .refused _ => s

/-- A list of durations as segments of a carrier: marks at even places. -/
def played (khz : Nat) (us : List Nat) : List Segment :=
  us.mapIdx fun i d => if i % 2 = 0 then .mark d khz else .space d

/-- A parameter choice whose RAW holds three entries. -/
def smallConfig : Config := { defaultConfig with rawCapacity := 3 }

/-- The ideal NEC capture of 95_test_vectors.md, section 1.8. -/
def necCapture : List Nat :=
  [1000, 180, 90, 11, 11, 11, 11, 11, 34, 11, 11, 11, 11, 11, 11, 11, 11, 11, 11, 11, 34, 11, 34, 11,
   11, 11, 34, 11, 34, 11, 34, 11, 34, 11, 34, 11, 11, 11, 11, 11, 11, 11, 34, 11, 11, 11, 11, 11, 11,
   11, 11, 11, 34, 11, 34, 11, 34, 11, 11, 11, 34, 11, 34, 11, 34, 11, 34, 11]

/-- The ideal SONY capture of 95_test_vectors.md, section 5. -/
def sonyCapture : List Nat :=
  [1000, 48, 12, 24, 12, 12, 12, 24, 12, 12, 12, 24, 12, 12, 12, 12, 12, 24, 12, 12, 12, 12, 12, 12, 12,
   12]

/-- The ideal PANASONIC capture of 95_test_vectors.md, section 5. -/
def panasonicCapture : List Nat :=
  [1000, 70, 35, 10, 8, 10, 25, 10, 8, 10, 8, 10, 8, 10, 8, 10, 8, 10, 8, 10, 8, 10, 8, 10, 8, 10, 8,
   10, 8, 10, 25, 10, 8, 10, 8, 10, 8, 10, 8, 10, 8, 10, 8, 10, 8, 10, 8, 10, 8, 10, 25, 10, 8, 10, 8,
   10, 8, 10, 8, 10, 8, 10, 8, 10, 8, 10, 8, 10, 25, 10, 8, 10, 25, 10, 25, 10, 25, 10, 25, 10, 8, 10,
   8, 10, 25, 10, 8, 10, 25, 10, 25, 10, 25, 10, 25, 10, 8, 10, 25, 10]

/-- The ideal JVC capture of 95_test_vectors.md, section 5. -/
def jvcCapture : List Nat :=
  [1000, 160, 80, 12, 32, 12, 32, 12, 11, 12, 11, 12, 11, 12, 32, 12, 11, 12, 32, 12, 32, 12, 32, 12,
   32, 12, 11, 12, 32, 12, 11, 12, 11, 12, 11, 12]

/-- The ideal SAMSUNG capture of 95_test_vectors.md, section 5. -/
def samsungCapture : List Nat :=
  [1000, 100, 100, 11, 32, 11, 32, 11, 32, 11, 11, 11, 11, 11, 11, 11, 11, 11, 11, 11, 32, 11, 32, 11,
   32, 11, 11, 11, 11, 11, 11, 11, 11, 11, 11, 11, 11, 11, 32, 11, 11, 11, 11, 11, 11, 11, 11, 11, 11,
   11, 11, 11, 32, 11, 11, 11, 32, 11, 32, 11, 32, 11, 32, 11, 32, 11, 32, 11]

/-- The ideal WHYNTER capture of 95_test_vectors.md, section 5. -/
def whynterCapture : List Nat :=
  [1000, 15, 15, 57, 57, 15, 43, 15, 15, 15, 15, 15, 15, 15, 15, 15, 43, 15, 43, 15, 43, 15, 15, 15, 43,
   15, 43, 15, 15, 15, 15, 15, 43, 15, 15, 15, 43, 15, 15, 15, 43, 15, 15, 15, 15, 15, 15, 15, 15, 15,
   43, 15, 43, 15, 15, 15, 15, 15, 43, 15, 15, 15, 15, 15, 15, 15, 15, 15, 43, 15]

/-- The ideal AIWA capture of 95_test_vectors.md, section 5. -/
def aiwaCapture : List Nat :=
  [1000, 176, 90, 10, 34, 10, 34, 10, 34, 10, 34, 10, 34, 10, 34, 10, 12, 10, 34, 10, 34, 10, 34, 10,
   12, 10, 34, 10, 34, 10, 12, 10, 12, 10, 12, 10, 12, 10, 12, 10, 12, 10, 34, 10, 12, 10, 12, 10, 12,
   10, 34, 10, 12, 10, 12, 10, 34, 10, 34, 10, 12, 10, 34, 10, 12, 10, 12, 10, 34, 10, 34, 10, 34, 10,
   12, 10, 34, 10, 34, 10, 12, 10, 34, 10, 34, 10, 34, 10]

/-- The ideal LG capture of 95_test_vectors.md, section 5. -/
def lgCapture : List Nat :=
  [1000, 160, 80, 12, 32, 12, 11, 12, 11, 12, 11, 12, 32, 12, 11, 12, 11, 12, 11, 12, 32, 12, 32, 12,
   11, 12, 11, 12, 11, 12, 11, 12, 11, 12, 11, 12, 11, 12, 11, 12, 11, 12, 11, 12, 11, 12, 32, 12, 11,
   12, 32, 12, 11, 12, 11, 12, 11, 12, 32, 12]

/-- The ideal DENON capture of 95_test_vectors.md, section 5. -/
def denonCapture : List Nat :=
  [1000, 6, 15, 6, 36, 6, 15, 6, 15, 6, 36, 6, 36, 6, 15, 6, 36, 6, 15, 6, 36, 6, 15, 6, 15, 6, 36, 6,
   15, 6, 36, 6]

/-- The ideal RC5 capture of 95_test_vectors.md, section 5. -/
def rc5Capture : List Nat :=
  [1000, 18, 18, 36, 36, 36, 36, 18, 18, 36, 36, 36, 18, 18, 36, 36, 36, 18]

/-- The ideal RC6 capture of 95_test_vectors.md, section 5. -/
def rc6Capture : List Nat :=
  [1000, 53, 18, 9, 9, 9, 9, 9, 18, 9, 18, 27, 18, 9, 9, 9, 9, 9, 9, 9, 9, 9, 9, 9, 9, 9, 9, 9, 9, 9, 9,
   9, 9, 18, 9, 9, 9, 9, 9, 9]

/-- The ideal SANYO capture of 95_test_vectors.md, section 5. -/
def sanyoCapture : List Nat :=
  [1000, 70, 19, 48, 19, 14, 19, 48, 19, 14, 19, 14, 19, 48, 19, 14, 19, 48, 19, 48, 19, 48, 19, 14, 19,
   14]

/-- The ideal MITSUBISHI capture of 95_test_vectors.md, section 5. -/
def mitsubishiCapture : List Nat :=
  [1000, 7, 39, 7, 39, 7, 39, 7, 15, 7, 15, 7, 15, 7, 39, 7, 15, 7, 15, 7, 39, 7, 15, 7, 15, 7, 15, 7,
   15, 7, 15, 7, 15, 7]

/-! Every check of WellFormed refuses an ill-formed term (R9, R12, R188, R193, R442). -/

theorem test_default_config_wf : defaultConfig.wf = true := by decide
theorem test_wf_refuses_zero_tick : Config.wf { defaultConfig with usecPerTick := 0 } = false := by decide
theorem test_wf_refuses_one_cell : Config.wf { defaultConfig with rawCapacity := 1 } = false := by decide
theorem test_wf_refuses_big_capacity :
    Config.wf { defaultConfig with rawCapacity := 65536 } = false := by decide
theorem test_wf_refuses_idle_gap :
    Config.wf { defaultConfig with idleGapTicks := 65535 } = false := by decide
theorem test_wf_refuses_wide_sample :
    Config.wf { defaultConfig with sampleMax := 65536 } = false := by decide
theorem test_wf_refuses_tolerance : Config.wf { defaultConfig with tolPct := 100 } = false := by decide
theorem test_wf_refuses_product :
    Config.wf { defaultConfig with usecPerTick := 2 ^ 62 } = false := by decide
theorem test_wf_refuses_dish_decoder :
    Config.wf { defaultConfig with enableDec := [.dish] } = false := by decide
theorem test_wf_refuses_sharp_in_order :
    Config.wf { defaultConfig with decodeOrder := [.nec, .sharp] } = false := by decide
theorem test_wf_refuses_sanyo_encoder :
    Config.wf { defaultConfig with enableEnc := [.sanyo] } = false := by decide
theorem test_wf_refuses_aiwa_pre :
    Config.wf { defaultConfig with aiwaPre := 2 ^ 26 } = false := by decide
theorem test_wf_refuses_zero_carrier :
    DescriptorTable.wfCarriers { defaultTable with rc5 := { defaultTable.rc5 with khz := 0 } } = false := by
  decide
theorem test_wf_refuses_own_tolerance :
    FrameDescriptor.wf 25 { defaultTable.nec with tol := 30 } = false := by decide
theorem test_wf_refuses_lsb_first :
    FrameDescriptor.wf 25 { defaultTable.nec with msbFirst := false } = false := by decide
theorem test_wf_refuses_cell_bounds :
    FrameDescriptor.wf 25 { defaultTable.nec with nmin := 33 } = false := by decide
theorem test_wf_refuses_long_value :
    FrameDescriptor.wf 25 { defaultTable.nec with nmax := 33 } = false := by decide
theorem test_wf_refuses_long_address :
    FrameDescriptor.wf 25 { defaultTable.panasonic with addrBits := 17 } = false := by decide
theorem test_wf_refuses_address_without_cells :
    FrameDescriptor.wf 25 { defaultTable.denon with nmin := 3 } = false := by decide
theorem test_wf_refuses_address_of_nec :
    FrameDescriptor.valueOnly { defaultTable.nec with addrBits := 1 } = false := by decide
theorem test_wf_refuses_zero_pronto_unit :
    Config.wf { defaultConfig with prontoUnitPs := 0 } = false := by decide
theorem test_wf_refuses_biphase_tolerance :
    BiphaseDescriptor.wf 25 { defaultTable.rc5 with tol := 30 } = false := by decide
theorem test_wf_refuses_biphase_lsb_first :
    BiphaseDescriptor.wf 25 { defaultTable.rc6 with msbFirst := false } = false := by decide
theorem test_wf_refuses_biphase_address :
    BiphaseDescriptor.wf 25 { defaultTable.rc6 with addrBits := 1 } = false := by decide
theorem test_wf_refuses_biphase_no_bit : BiphaseDescriptor.wf 25 { defaultTable.rc5 with nmin := 0 } = false := by
  decide
theorem test_wf_refuses_biphase_33 : BiphaseDescriptor.wf 25 { defaultTable.rc6 with nmax := 33 } = false := by
  decide
theorem test_wf_refuses_biphase_empty_range :
    BiphaseDescriptor.wf 25 { defaultTable.rc6 with nmin := 9, nmax := 8 } = false := by decide
theorem test_wf_refuses_biphase_short :
    BiphaseDescriptor.wf 25 { defaultTable.rc6 with minRawlen := 3 } = false := by decide
theorem test_wf_refuses_aiwa_shape :
    FrameDescriptor.aiwaShape 25 { defaultTable.aiwa with nmax := 43 } = false := by decide

/-! The decoder on a byte written out for every command (R171: class 000; R172: class 001; R173: class 010), and
the encoder back. -/

theorem test_decode_nop :
    decode [0b00000000] = .ok (.nop, []) ∧ encode .nop = [0b00000000] := by decide
theorem test_decode_rx_enable :
    decode [0b00000001] = .ok (.rxEnable, []) ∧ encode .rxEnable = [0b00000001] := by decide
theorem test_decode_rx_disable :
    decode [0b00000010] = .ok (.rxDisable, []) ∧ encode .rxDisable = [0b00000010] := by decide
theorem test_decode_rx_resume :
    decode [0b00000011] = .ok (.rxResume, []) ∧ encode .rxResume = [0b00000011] := by decide
theorem test_decode_rx_is_idle :
    decode [0b00000100] = .ok (.rxIsIdle, []) ∧ encode .rxIsIdle = [0b00000100] := by decide
theorem test_decode_rx_decode :
    decode [0b00000101] = .ok (.rxDecode, []) ∧ encode .rxDecode = [0b00000101] := by decide
theorem test_decode_rx_decode_copy :
    decode [0b00000110] = .ok (.rxDecodeCopy, []) ∧ encode .rxDecodeCopy = [0b00000110] := by decide
theorem test_decode_available_hash :
    decode [0b00100000] = .ok (.availableHash, []) ∧ encode .availableHash = [0b00100000] := by decide
theorem test_decode_available_rc5 :
    decode [0b00100001] = .ok (.availableRc5, []) ∧ encode .availableRc5 = [0b00100001] := by decide
theorem test_decode_available_rc6 :
    decode [0b00100010] = .ok (.availableRc6, []) ∧ encode .availableRc6 = [0b00100010] := by decide
theorem test_decode_available_nec :
    decode [0b00100011] = .ok (.availableNec, []) ∧ encode .availableNec = [0b00100011] := by decide
theorem test_decode_available_sony :
    decode [0b00100100] = .ok (.availableSony, []) ∧ encode .availableSony = [0b00100100] := by decide
theorem test_decode_available_panasonic :
    decode [0b00100101] = .ok (.availablePanasonic, []) ∧ encode .availablePanasonic = [0b00100101] := by decide
theorem test_decode_available_jvc :
    decode [0b00100110] = .ok (.availableJvc, []) ∧ encode .availableJvc = [0b00100110] := by decide
theorem test_decode_available_samsung :
    decode [0b00100111] = .ok (.availableSamsung, []) ∧ encode .availableSamsung = [0b00100111] := by decide
theorem test_decode_available_whynter :
    decode [0b00101000] = .ok (.availableWhynter, []) ∧ encode .availableWhynter = [0b00101000] := by decide
theorem test_decode_available_aiwa :
    decode [0b00101001] = .ok (.availableAiwa, []) ∧ encode .availableAiwa = [0b00101001] := by decide
theorem test_decode_available_lg :
    decode [0b00101010] = .ok (.availableLg, []) ∧ encode .availableLg = [0b00101010] := by decide
theorem test_decode_available_sanyo :
    decode [0b00101011] = .ok (.availableSanyo, []) ∧ encode .availableSanyo = [0b00101011] := by decide
theorem test_decode_available_mitsubishi :
    decode [0b00101100] = .ok (.availableMitsubishi, []) ∧ encode .availableMitsubishi = [0b00101100] := by decide
theorem test_decode_available_denon :
    decode [0b00101101] = .ok (.availableDenon, []) ∧ encode .availableDenon = [0b00101101] := by decide
theorem test_decode_send_raw :
    decode [0b01000000] = .ok (.sendRaw, []) ∧ encode .sendRaw = [0b01000000] := by decide
theorem test_decode_send_rc5 :
    decode [0b01000001] = .ok (.sendRc5, []) ∧ encode .sendRc5 = [0b01000001] := by decide
theorem test_decode_send_rc6 :
    decode [0b01000010] = .ok (.sendRc6, []) ∧ encode .sendRc6 = [0b01000010] := by decide
theorem test_decode_send_nec :
    decode [0b01000011] = .ok (.sendNec, []) ∧ encode .sendNec = [0b01000011] := by decide
theorem test_decode_send_sony :
    decode [0b01000100] = .ok (.sendSony, []) ∧ encode .sendSony = [0b01000100] := by decide
theorem test_decode_send_panasonic :
    decode [0b01000101] = .ok (.sendPanasonic, []) ∧ encode .sendPanasonic = [0b01000101] := by decide
theorem test_decode_send_jvc :
    decode [0b01000110] = .ok (.sendJvc, []) ∧ encode .sendJvc = [0b01000110] := by decide
theorem test_decode_send_samsung :
    decode [0b01000111] = .ok (.sendSamsung, []) ∧ encode .sendSamsung = [0b01000111] := by decide
theorem test_decode_send_whynter :
    decode [0b01001000] = .ok (.sendWhynter, []) ∧ encode .sendWhynter = [0b01001000] := by decide
theorem test_decode_send_aiwa :
    decode [0b01001001] = .ok (.sendAiwa, []) ∧ encode .sendAiwa = [0b01001001] := by decide
theorem test_decode_send_lg :
    decode [0b01001010] = .ok (.sendLg, []) ∧ encode .sendLg = [0b01001010] := by decide
theorem test_decode_send_denon :
    decode [0b01001101] = .ok (.sendDenon, []) ∧ encode .sendDenon = [0b01001101] := by decide
theorem test_decode_send_dish :
    decode [0b01001110] = .ok (.sendDish, []) ∧ encode .sendDish = [0b01001110] := by decide
theorem test_decode_send_sharp :
    decode [0b01001111] = .ok (.sendSharp, []) ∧ encode .sendSharp = [0b01001111] := by decide
theorem test_decode_send_pronto :
    decode [0b01010000] = .ok (.sendPronto, []) ∧ encode .sendPronto = [0b01010000] := by decide

theorem test_decode_no_byte : decode [] = .error .noByte := by decide
theorem test_decode_reserved_ctrl :
    decode [0x07] = .error .reservedCtrl ∧ decode [0x1F] = .error .reservedCtrl := by decide
theorem test_decode_no_decoder :
    decode [0x2E] = .error .noDecoder ∧ decode [0x2F] = .error .noDecoder := by decide
theorem test_decode_reserved_available :
    decode [0x30] = .error .reservedAvailable ∧ decode [0x3F] = .error .reservedAvailable := by decide
theorem test_decode_no_encoder :
    decode [0x4B] = .error .noEncoder ∧ decode [0x4C] = .error .noEncoder := by decide
theorem test_decode_reserved_send :
    decode [0x51] = .error .reservedSend ∧ decode [0x5F] = .error .reservedSend := by decide
theorem test_decode_reserved_class :
    decode [0x60] = .error .reservedClass ∧ decode [0xFF] = .error .reservedClass := by decide
theorem test_decode_hands_back_the_rest : decode [0x43, 0x99] = .ok (.sendNec, [0x99]) := by decide
theorem test_table_word_eight_bits : decodeTableWord 8 0x50 = some .sendPronto := by decide

/-! One command at a time, with the numbers of 95_test_vectors.md and of the rules' examples. -/

/-- STATUS of a new block is 0x00; a NOP then reads 0x01. -/
theorem test_nop : State.reset.status = 0x00 ∧ (after .nop State.reset).status = 0x01 := by decide

/-- R270: after reset, RX_ENABLE gives STATUS 0x09. -/
theorem test_rx_enable : (after .rxEnable State.reset).status = 0x09 := by decide

/-- R271: STATUS 0x4B becomes 0x43. -/
theorem test_rx_disable : (after .rxDisable (after .nop (ready [5]))).status = 0x43 := by decide

/-- R272: READY with 68 entries becomes IDLE and empty, and the count of 137 stays. -/
theorem test_rx_resume :
    let t := after .rxResume { ready necCapture with counter := 137 }
    t.rcvstate = .idle ∧ t.rawlen = 0 ∧ t.counter = 137 ∧ t.rxEnable = true := by decide

/-- R273: in ACTIVE the answer is 0, in READY 1. -/
theorem test_rx_is_idle :
    (after .rxIsIdle (active .mark 3 [5])).status = 0x28 ∧ (after .rxIsIdle (ready [5])).status = 0x4B := by
  decide

/-- Section 1.8: the result of the NEC scenario. -/
theorem test_rx_decode :
    (after .rxDecode (ready necCapture)).res = ⟨3, 0x20DF10EF, 0, 32, 68, false⟩ := by decide

/-- Section 3: eight entries that fit no protocol. -/
theorem test_rx_decode_unknown :
    (after .rxDecode (ready [41, 48, 12, 24, 12, 12, 12, 24])).res
      = ⟨0xFF, 0xFACD8CEB, 0, 0, 8, false⟩ := by decide

/-- R306: the copy goes to the snapshot, with its own cells, and the live result stays. -/
theorem test_rx_decode_copy :
    let t := after .rxDecodeCopy (ready necCapture)
    t.snap = ⟨3, 0x20DF10EF, 0, 32, 68, false⟩ ∧ t.snapCell 1 = 180 ∧ t.res.tag = 0 := by decide

/-- R307: AVAILABLE.HASH is 1 in READY and 0 elsewhere. -/
theorem test_available_hash :
    (after .availableHash (ready [5])).statusOk = true
      ∧ (after .availableHash State.reset).statusOk = false := by decide

/-- Section 5: AVAILABLE.RC5 on its own capture and on one of NEC. -/
theorem test_available_rc5 :
    (after .availableRc5 (ready rc5Capture)).statusOk = true
      ∧ (after .availableRc5 (ready necCapture)).statusOk = false := by decide

/-- Section 5: the result of the RC5 vector. -/
theorem test_result_rc5 : (after .rxDecode (ready rc5Capture)).res = ⟨1, 0x5A5, 0, 12, 18, false⟩ := by decide

/-- Section 5: AVAILABLE.RC6 on its own capture and on one of NEC. -/
theorem test_available_rc6 :
    (after .availableRc6 (ready rc6Capture)).statusOk = true
      ∧ (after .availableRc6 (ready necCapture)).statusOk = false := by decide

/-- Section 5: the result of the RC6 vector. -/
theorem test_result_rc6 : (after .rxDecode (ready rc6Capture)).res = ⟨2, 0xC800F, 0, 20, 40, false⟩ := by decide

/-- Section 5: AVAILABLE.NEC on its own capture and on one of SAMSUNG. -/
theorem test_available_nec :
    (after .availableNec (ready necCapture)).statusOk = true
      ∧ (after .availableNec (ready samsungCapture)).statusOk = false := by decide

/-- Section 5: AVAILABLE.SONY on its own capture and on one of SANYO. -/
theorem test_available_sony :
    (after .availableSony (ready sonyCapture)).statusOk = true
      ∧ (after .availableSony (ready sanyoCapture)).statusOk = false := by decide

/-- Section 5: the result of the SONY vector. -/
theorem test_result_sony : (after .rxDecode (ready sonyCapture)).res = ⟨4, 0xA90, 0, 12, 26, false⟩ := by decide

/-- Section 5: AVAILABLE.PANASONIC on its own capture and on one of NEC. -/
theorem test_available_panasonic :
    (after .availablePanasonic (ready panasonicCapture)).statusOk = true
      ∧ (after .availablePanasonic (ready necCapture)).statusOk = false := by decide

/-- Section 5: the result of the PANASONIC vector. -/
theorem test_result_panasonic : (after .rxDecode (ready panasonicCapture)).res = ⟨5, 0x0100BCBD, 0x4004, 32, 100, false⟩ := by decide

/-- Section 5: AVAILABLE.JVC on its own capture and on one of LG. -/
theorem test_available_jvc :
    (after .availableJvc (ready jvcCapture)).statusOk = true
      ∧ (after .availableJvc (ready lgCapture)).statusOk = false := by decide

/-- Section 5: the result of the JVC vector. -/
theorem test_result_jvc : (after .rxDecode (ready jvcCapture)).res = ⟨6, 0xC5E8, 0, 16, 36, false⟩ := by decide

/-- Section 5: AVAILABLE.SAMSUNG on its own capture and on one of NEC. -/
theorem test_available_samsung :
    (after .availableSamsung (ready samsungCapture)).statusOk = true
      ∧ (after .availableSamsung (ready necCapture)).statusOk = false := by decide

/-- Section 5: the result of the SAMSUNG vector. -/
theorem test_result_samsung : (after .rxDecode (ready samsungCapture)).res = ⟨7, 0xE0E040BF, 0, 32, 68, false⟩ := by decide

/-- Section 5: AVAILABLE.WHYNTER on its own capture and on one of NEC. -/
theorem test_available_whynter :
    (after .availableWhynter (ready whynterCapture)).statusOk = true
      ∧ (after .availableWhynter (ready necCapture)).statusOk = false := by decide

/-- Section 5: the result of the WHYNTER vector. -/
theorem test_result_whynter : (after .rxDecode (ready whynterCapture)).res = ⟨8, 0x87654321, 0, 32, 70, false⟩ := by decide

/-- Section 5: AVAILABLE.AIWA on its own capture and on one of NEC. -/
theorem test_available_aiwa :
    (after .availableAiwa (ready aiwaCapture)).statusOk = true
      ∧ (after .availableAiwa (ready necCapture)).statusOk = false := by decide

/-- Section 5: the result of the AIWA vector. -/
theorem test_result_aiwa : (after .rxDecode (ready aiwaCapture)).res = ⟨9, 0x1234, 0, 15, 88, false⟩ := by decide

/-- Section 5: AVAILABLE.LG on its own capture and on one of JVC. -/
theorem test_available_lg :
    (after .availableLg (ready lgCapture)).statusOk = true
      ∧ (after .availableLg (ready jvcCapture)).statusOk = false := by decide

/-- Section 5: the result of the LG vector. -/
theorem test_result_lg : (after .rxDecode (ready lgCapture)).res = ⟨10, 0x88C0051, 0, 28, 60, false⟩ := by decide

/-- Section 5: AVAILABLE.SANYO on its own capture and on one of SONY. -/
theorem test_available_sanyo :
    (after .availableSanyo (ready sanyoCapture)).statusOk = true
      ∧ (after .availableSanyo (ready sonyCapture)).statusOk = false := by decide

/-- Section 5: the result of the SANYO vector. -/
theorem test_result_sanyo : (after .rxDecode (ready sanyoCapture)).res = ⟨11, 0xA5C, 0, 12, 26, false⟩ := by decide

/-- Section 5: AVAILABLE.MITSUBISHI on its own capture and on one of DENON. -/
theorem test_available_mitsubishi :
    (after .availableMitsubishi (ready mitsubishiCapture)).statusOk = true
      ∧ (after .availableMitsubishi (ready denonCapture)).statusOk = false := by decide

/-- Section 5: the result of the MITSUBISHI vector. -/
theorem test_result_mitsubishi : (after .rxDecode (ready mitsubishiCapture)).res = ⟨12, 0xE240, 0, 16, 34, false⟩ := by decide

/-- Section 5: AVAILABLE.DENON on its own capture and on one of MITSUBISHI. -/
theorem test_available_denon :
    (after .availableDenon (ready denonCapture)).statusOk = true
      ∧ (after .availableDenon (ready mitsubishiCapture)).statusOk = false := by decide

/-- Section 5: the result of the DENON vector. -/
theorem test_result_denon : (after .rxDecode (ready denonCapture)).res = ⟨13, 0x2A5, 9, 10, 32, false⟩ := by decide

/-- R407: what SEND.NEC plays. -/
theorem test_send_nec :
    (after .sendNec (operands 0xA5 0 8)).txout = played 38
      [9000, 4500, 560, 1690, 560, 560, 560, 1690, 560, 560, 560, 560, 560, 1690, 560, 560, 560, 1690,
       560] := by
  decide

/-- R408: what SEND.SONY plays. -/
theorem test_send_sony :
    (after .sendSony (operands 5 0 3)).txout = played 40
      [2400, 600, 1200, 600, 600, 600, 1200] := by
  decide

/-- R420: what SEND.RC5 plays. -/
theorem test_send_rc5 :
    (after .sendRc5 (operands 0x5A5 0 12)).txout = played 36
      [889, 889, 1778, 1778, 1778, 1778, 889, 889, 1778, 1778, 1778, 889, 889, 1778, 1778, 1778, 889] := by
  decide

/-- R421: what SEND.RC6 plays. -/
theorem test_send_rc6 :
    (after .sendRc6 (operands 0xA 0 4)).txout = played 36
      [2666, 889, 444, 444, 444, 888, 888, 1332, 888] := by
  decide

/-- R415: what SEND.DENON plays. -/
theorem test_send_denon :
    (after .sendDenon (operands 0x2A5 9 0)).txout = played 38
      [300, 750, 300, 1800, 300, 750, 300, 750, 300, 1800, 300, 1800, 300, 750, 300, 1800, 300, 750,
       300, 1800, 300, 750, 300, 750, 300, 1800, 300, 750, 300, 1800, 300] := by
  decide

/-- R416: what SEND.DISH plays. -/
theorem test_send_dish :
    (after .sendDish (operands 0x1C10 0 16)).txout = played 56
      [400, 6100, 400, 2800, 400, 2800, 400, 2800, 400, 1700, 400, 1700, 400, 1700, 400, 2800, 400,
       2800, 400, 2800, 400, 2800, 400, 2800, 400, 1700, 400, 2800, 400, 2800, 400, 2800, 400, 2800,
       400] := by
  decide

/-- R417: what SEND.SHARP plays. -/
theorem test_send_sharp :
    (after .sendSharp (operands 0x16 1 0)).txout = played 38
      [245, 795, 245, 795, 245, 795, 245, 795, 245, 1805, 245, 795, 245, 795, 245, 795, 245, 1805, 245,
       795, 245, 1805, 245, 1805, 245, 795, 245, 1805, 245, 795, 245] := by
  decide

/-- section 5: what SEND.SAMSUNG plays. -/
theorem test_send_samsung :
    (after .sendSamsung (operands 0xE0E040BF 0 32)).txout = played 38
      [5000, 5000, 560, 1600, 560, 1600, 560, 1600, 560, 560, 560, 560, 560, 560, 560, 560, 560, 560,
       560, 1600, 560, 1600, 560, 1600, 560, 560, 560, 560, 560, 560, 560, 560, 560, 560, 560, 560, 560,
       1600, 560, 560, 560, 560, 560, 560, 560, 560, 560, 560, 560, 560, 560, 1600, 560, 560, 560, 1600,
       560, 1600, 560, 1600, 560, 1600, 560, 1600, 560, 1600, 560] := by
  decide

/-- section 5: what SEND.WHYNTER plays. -/
theorem test_send_whynter :
    (after .sendWhynter (operands 0x87654321 0 32)).txout = played 38
      [750, 750, 2850, 2850, 750, 2150, 750, 750, 750, 750, 750, 750, 750, 750, 750, 2150, 750, 2150,
       750, 2150, 750, 750, 750, 2150, 750, 2150, 750, 750, 750, 750, 750, 2150, 750, 750, 750, 2150,
       750, 750, 750, 2150, 750, 750, 750, 750, 750, 750, 750, 750, 750, 2150, 750, 2150, 750, 750, 750,
       750, 750, 2150, 750, 750, 750, 750, 750, 750, 750, 750, 750, 2150, 750] := by
  decide

/-- section 5: what SEND.LG plays. -/
theorem test_send_lg :
    (after .sendLg (operands 0x88C0051 0 28)).txout = played 38
      [8000, 4000, 600, 1600, 600, 550, 600, 550, 600, 550, 600, 1600, 600, 550, 600, 550, 600, 550,
       600, 1600, 600, 1600, 600, 550, 600, 550, 600, 550, 600, 550, 600, 550, 600, 550, 600, 550, 600,
       550, 600, 550, 600, 550, 600, 550, 600, 1600, 600, 550, 600, 1600, 600, 550, 600, 550, 600, 550,
       600, 1600, 600] := by
  decide

/-- section 5: what SEND.JVC plays. -/
theorem test_send_jvc :
    (after .sendJvc (operands 0xC5E8 0 16)).txout = played 38
      [8000, 4000, 600, 1600, 600, 1600, 600, 550, 600, 550, 600, 550, 600, 1600, 600, 550, 600, 1600,
       600, 1600, 600, 1600, 600, 1600, 600, 550, 600, 1600, 600, 550, 600, 550, 600, 550, 600] := by
  decide

/-- section 5: what SEND.PANASONIC plays. -/
theorem test_send_panasonic :
    (after .sendPanasonic (operands 0x0100BCBD 0x4004 0)).txout = played 35
      [3502, 1750, 502, 400, 502, 1244, 502, 400, 502, 400, 502, 400, 502, 400, 502, 400, 502, 400, 502,
       400, 502, 400, 502, 400, 502, 400, 502, 400, 502, 1244, 502, 400, 502, 400, 502, 400, 502, 400,
       502, 400, 502, 400, 502, 400, 502, 400, 502, 400, 502, 1244, 502, 400, 502, 400, 502, 400, 502,
       400, 502, 400, 502, 400, 502, 400, 502, 400, 502, 1244, 502, 400, 502, 1244, 502, 1244, 502,
       1244, 502, 1244, 502, 400, 502, 400, 502, 1244, 502, 400, 502, 1244, 502, 1244, 502, 1244, 502,
       1244, 502, 400, 502, 1244, 502] := by
  decide +kernel

/-- section 5: what SEND.AIWA plays. -/
theorem test_send_aiwa :
    (after .sendAiwa (operands 0x1234 0 0)).txout = played 38
      [8800, 4500, 500, 1700, 500, 1700, 500, 1700, 500, 1700, 500, 1700, 500, 1700, 500, 600, 500,
       1700, 500, 1700, 500, 1700, 500, 600, 500, 1700, 500, 1700, 500, 600, 500, 600, 500, 600, 500,
       600, 500, 600, 500, 600, 500, 1700, 500, 600, 500, 600, 500, 600, 500, 1700, 500, 600, 500, 600,
       500, 1700, 500, 1700, 500, 600, 500, 1700, 500, 600, 500, 600, 500, 1700, 500, 1700, 500, 1700,
       500, 600, 500, 1700, 500, 1700, 500, 600, 500, 1700, 500, 1700, 500, 1700, 500] := by
  decide +kernel

/-- R403: bits above `nbits` are ignored, and the status bits and `rx_enable` of a send. -/
theorem test_send_masks_value :
    let t := after .sendNec { operands 0x1FF 0 8 with rxEnable := true }
    t.txout = (after .sendNec (operands 0xFF 0 8)).txout ∧ t.status = 0x01 := by decide

/-- R410: with REPEAT the header pair is left out. -/
theorem test_send_jvc_repeat :
    (after .sendJvc { operands 0xC5E8 0 16 with argFlags := 1 }).txout
      = (after .sendJvc (operands 0xC5E8 0 16)).txout.drop 2 := by decide

/-- R421: the plan of one RC6 bit; R420: that of one RC5 bit. -/
theorem test_send_biphase_one_bit :
    (after .sendRc6 (operands 0 0 1)).txout = played 36 [2666, 889, 444, 888, 444]
      ∧ (after .sendRc5 (operands 0 0 1)).txout = played 36 [889, 889, 1778] := by decide

/-- R175: a bit count of 33 is illegal. -/
theorem test_send_nbits_range : (after .sendSony (operands 5 0 33)).status = 0x10 := by decide

/-- R441: the NEC repeat codeword as a raw send; with a carrier of 0 kHz it is illegal. -/
theorem test_send_raw :
    let s := { State.reset with txbuf := cellsOf 32 [9000, 2250, 560], argLen := 3, argKhz := 38 }
    (after .sendRaw s).txout = played 38 [9000, 2250, 560]
      ∧ (after .sendRaw { s with argKhz := 0 }).status = 0x10 := by decide

/-- The text of R471 (a), as character codes. -/
def prontoExample : List Nat :=
  [48, 48, 48, 48, 32, 48, 48, 54, 68, 32, 48, 48, 48, 50, 32, 48, 48, 48, 48, 32, 48, 49, 53, 54, 32,
   48, 48, 65, 66, 32, 48, 48, 49, 53, 32, 48, 53, 70, 48]

/-- R471 (a) and (c): the once sequence is played; asked for the empty repeat sequence without fallback, the
answer is no and nothing is played. -/
theorem test_send_pronto :
    (after .sendPronto (pronto prontoExample 0)).txout = played 38 [8993, 4497, 552, 39970]
      ∧ (after .sendPronto (pronto prontoExample 1)).status = 0x00
      ∧ (after .sendPronto (pronto prontoExample 1)).txout = [] := by decide

/-- R471 (b): with fallback the once sequence is played. -/
theorem test_send_pronto_fallback :
    (after .sendPronto (pronto prontoExample 3)).txout = played 38 [8993, 4497, 552, 39970] := by
  decide

/-! TICK and the host port. -/

/-- R262: at a count of 399 in IDLE the change to MARK stores 400. -/
theorem test_tick_starts_capture :
    let t := afterEvent (.tick .mark) { after .rxEnable State.reset with counter := 399 }
    t.rcvstate = .active ∧ t.rawCell 0 = 400 ∧ t.rawlen = 1 ∧ t.counter = 0 ∧ t.curLevel = .mark := by
  decide

/-- R262: at a count of 179 in a mark the change to SPACE stores 180. -/
theorem test_tick_pushes :
    let t := afterEvent (.tick .space) (active .mark 179 [400])
    t.rawCell 1 = 180 ∧ t.rawCell 0 = 400 ∧ t.rawlen = 2 ∧ t.curLevel = .space := by decide

/-- Section 3, ticks 285 and 286: a count of 100 is still ACTIVE, 101 is READY. -/
theorem test_tick_idle_gap :
    (afterEvent (.tick .space) (active .space 99 [41, 48])).rcvstate = .active
      ∧ (afterEvent (.tick .space) (active .space 100 [41, 48])).rcvstate = .ready := by decide

/-- R80: bits 7:2 of ARG_FLAGS are not stored. -/
theorem test_arg_flags : (afterEvent (.regWrite 0x05 0xFE) State.reset).argFlags = 2 := by decide

/-- R123: past the end of TXBUF a write is ignored and a read gives 0. -/
theorem test_cell_past_end :
    (afterEvent (.memWrite .txbuf 256 7) State.reset).txbuf = []
      ∧ (afterEvent (.memRead .txbuf 256) State.reset).hostReads = [0] := by decide

/-- R55: a tag of -1 reads 0xFF, and STATUS of a READY, armed, overflowed capture is 0x4E before an answer. -/
theorem test_reads :
    (afterEvent (.regRead 0x10) (after .rxDecode (ready [1000, 20]))).hostReads = [0xFF]
      ∧ (afterEvent (.regRead 0x01) { ready [5] with overflow := true }).hostReads = [0x4E] := by
  decide

/-- R484: signatures of short captures. -/
theorem test_hash :
    hashCapture defaultConfig [1000, 20] = 0x811C9DC5 ∧ hashCapture defaultConfig [1000, 20, 10] = 0x050C5D1F
      ∧ hashCapture defaultConfig [1000, 20, 30] = 0x050C5D1D
      ∧ hashCapture defaultConfig [1000, 20, 16, 20] = 0x1076963B := by decide

/-- The ids of R121. -/
theorem test_space_ids : [Space.raw, .snapraw, .txbuf, .ptxt].map Space.id = [0, 1, 2, 3] := by decide

/-- The word the host's check places is fetched and run by the very next step. -/
theorem test_with_fetch_word :
    (match step (State.reset.withFetchWord 8 0x01) with
      | .next t => t.status
      | .fault _ => 0xFF
      | .refused _ => 0xFF) = 0x09 := by decide


/-! Witnesses: for each statement with hypotheses, a state and operands that meet all of them; for one of several
clauses, a witness for each clause, at the ends of its ranges. -/

/-- A state with one event to come. -/
abbrev next (e : Input) (s : State) : State := { s with inputs := [e] }

theorem witness_decodeEncodeAgree : decode [0x50, 7] = .ok (.sendPronto, [7]) := by decide

theorem witness_stepRunsDecodedCommand :
    (next (.regWrite 0 0x143) State.reset).inputs = .regWrite 0 0x143 :: [] ∧ Instr.sendNec.WellFormed
      ∧ decode [BitVec.ofNat 8 0x143] = .ok (.sendNec, []) := by decide

theorem witness_illegalByteChangesOnlyStatus :
    ∀ v ∈ [0x07, 0x1F, 0x2E, 0x3F, 0x4B, 0x4C, 0x51, 0xFF, 0x107],
      (next (.regWrite 0 v) State.reset).inputs = .regWrite 0 v :: []
        ∧ ((0x07 ≤ v % 256 ∧ v % 256 ≤ 0x1F) ∨ (0x2E ≤ v % 256 ∧ v % 256 ≤ 0x3F) ∨ v % 256 = 0x4B
          ∨ v % 256 = 0x4C ∨ 0x51 ≤ v % 256) := by decide

theorem witness_rxEnableRearmsSampler : ∃ t, exec .rxEnable State.reset = .next t := ⟨_, rfl⟩

theorem witness_rxDisableOnlyDisarms :
    (after .nop (ready [5])).status = 0x4B ∧ ∃ t, exec .rxDisable (after .nop (ready [5])) = .next t :=
  ⟨by decide, _, rfl⟩

theorem witness_tickDisabledChangesNothing :
    (next (.tick .mark) State.reset).inputs = .tick .mark :: [] ∧ State.reset.rxEnable = false := by decide

theorem witness_tickStartsCapture :
    let s := next (.tick .mark) { after .rxEnable State.reset with counter := 0xFFFF }
    s.inputs = .tick .mark :: [] ∧ s.rxEnable = true ∧ s.cfg.wf = true ∧ s.rcvstate = .idle
      ∧ s.curLevel = .space := by decide

theorem witness_tickOutsideActiveTracksEdges_ready :
    let s := next (.tick .mark) (ready [5])
    s.inputs = .tick .mark :: [] ∧ s.rxEnable = true ∧ s.rcvstate = .ready := by decide

theorem witness_tickOutsideActiveTracksEdges_idle :
    let s := next (.tick .mark) { after .rxEnable State.reset with curLevel := .mark }
    s.inputs = .tick .mark :: [] ∧ s.rxEnable = true ∧ s.rcvstate = .idle
      ∧ ¬ (Level.mark = .mark ∧ s.curLevel = .space) := by decide

theorem witness_tickPushesSampleOrOverflows_push :
    let s := next (.tick .space) { active .mark 7 [5, 6] with cfg := smallConfig }
    s.inputs = .tick .space :: [] ∧ s.rxEnable = true ∧ s.cfg.wf = true ∧ s.rcvstate = .active
      ∧ Level.space ≠ s.curLevel ∧ s.rawlen.toNat < s.cfg.rawCapacity := by decide

theorem witness_tickPushesSampleOrOverflows_full :
    let s := next (.tick .space) { active .mark 7 [5, 6, 7] with cfg := smallConfig }
    s.inputs = .tick .space :: [] ∧ s.rxEnable = true ∧ s.cfg.wf = true ∧ s.rcvstate = .active
      ∧ Level.space ≠ s.curLevel ∧ s.rawlen.toNat = s.cfg.rawCapacity := by decide

theorem witness_tickIdleGapEndsCapture :
    let s := next (.tick .space) (active .space 100 [5, 6])
    s.inputs = .tick .space :: [] ∧ s.rxEnable = true ∧ s.cfg.wf = true ∧ s.rcvstate = .active
      ∧ Level.space = s.curLevel := by decide

/-- An armed sampler of four cells, with a signal that just fits and a space just at the threshold. -/
def quietLine : State :=
  { after .rxEnable State.reset with
    cfg := { defaultConfig with rawCapacity := 4, idleGapTicks := 3 }
    inputs := levelTicks .space [2] ++ (levelTicks .mark [1, 3, 5] ++ (levelTicks .space [5] ++ [.rst])) }

theorem witness_cleanSignalIsCapturedWhole :
    quietLine.cfg.wf = true ∧ quietLine.rxEnable = true ∧ quietLine.rcvstate = .idle
      ∧ quietLine.curLevel = .space ∧ [1, 3, 5].length % 2 = 1
      ∧ [1, 3, 5].length < quietLine.cfg.rawCapacity
      ∧ (∀ m ∈ [1, 3, 5], 1 ≤ m ∧ m ≤ quietLine.cfg.sampleMax)
      ∧ (∀ i m, i % 2 = 1 → [1, 3, 5][i]? = some m → m ≤ quietLine.cfg.idleGapTicks)
      ∧ quietLine.inputs = levelTicks .space [2] ++ (levelTicks .mark [1, 3, 5]
        ++ (levelTicks .space [quietLine.cfg.idleGapTicks + 2] ++ [.rst])) := by
  refine ⟨by decide, by decide, by decide, by decide, by decide, by decide, by decide, ?_, by decide⟩
  intro i m hi hm
  match i, hi, hm with
  | 1, _, hm => simp at hm; simp [← hm, quietLine]
  | n + 3, _, hm => simp at hm

/-- A state that is not the reset state meets the invariant, and steps. -/
theorem witness_stepKeepsBlockInvariant :
    (next (.tick .mark) (after .rxEnable State.reset)).Inv
      ∧ ∃ t, step (next (.tick .mark) (after .rxEnable State.reset)) = .next t := by
  refine ⟨?_, _, rfl⟩
  constructor <;> first
    | decide
    | exact ⟨by decide, by decide⟩
    | (intro i hi; exact absurd hi (by simp [after, exec, execRxEnable, State.answer, State.reset,
        State.emptied, DecodeResult.unused]))

theorem witness_onlyHostLeavesReady :
    (ready [5]).rcvstate = .ready
      ∧ (afterEvent .rst (ready [5])).rcvstate ≠ .ready
      ∧ (afterEvent (.regWrite 0 0x01) (ready [5])).rcvstate ≠ .ready
      ∧ (afterEvent (.regWrite 0 0x03) (ready [5])).rcvstate ≠ .ready := by decide

theorem witness_onlyRxEnableArms :
    State.reset.rxEnable = false ∧ (afterEvent (.regWrite 0 0x01) State.reset).rxEnable = true := by decide

theorem witness_commandsLeaveCaptureAndOperandsAlone :
    (∃ t, exec .sendNec (operands 5 0 8) = .next t) ∧ Instr.sendNec ≠ .rxEnable
      ∧ Instr.sendNec ≠ .rxResume := ⟨⟨_, rfl⟩, by decide, by decide⟩

theorem witness_resultsWrittenOnlyByDecodes :
    (afterEvent (.regWrite 0 0x05) (ready [5, 6])).res ≠ (ready [5, 6]).res
      ∧ (afterEvent (.regWrite 0 0x06) (ready [5, 6])).snap ≠ (ready [5, 6]).snap
      ∧ (afterEvent (.regWrite 0 0x06) (ready [5, 6])).lastTag ≠ (ready [5, 6]).lastTag
      ∧ (next (.regWrite 0 0x05) (ready [5, 6])).inputs.head? ≠ some .rst := by decide

theorem witness_txoutOnlyGrows :
    (afterEvent (.regWrite 0 0x40) { State.reset with txbuf := cellsOf 32 [9], argLen := 1, argKhz := 38 }).txout
        = State.reset.txout ++ [.mark 9 38]
      ∧ (next (.regWrite 0 0x40) State.reset).inputs.head? ≠ some .rst := by decide

theorem witness_onlyCommandsWriteStatusBits :
    (next (.tick .mark) State.reset).inputs.head? ≠ some .rst
      ∧ (∀ v, (next (.tick .mark) State.reset).inputs.head? ≠ some (.regWrite 0 v))
      ∧ (∃ t, step (next (.tick .mark) State.reset) = .next t)
      ∧ ∃ t, exec .nop State.reset = .next t :=
  ⟨by decide, by simp, ⟨_, rfl⟩, ⟨_, rfl⟩⟩

theorem witness_operandRegisterWriteRead :
    ∀ n ∈ [0x02, 0x03, 0x04, 0x05, 0x06, 0x07],
      let s := { State.reset with inputs := [.regWrite n 0x1FFFFFFFF, .regRead n] }
      s.inputs = .regWrite n 0x1FFFFFFFF :: .regRead n :: [] := by decide

theorem witness_resultRegistersRead :
    (∀ n ∈ [0, 0x09, 0x0F, 0x16, 0x17, 0x1E, 0x10, 0x1D],
      (next (.regRead n) State.reset).inputs = .regRead n :: [])
      ∧ (0x10, State.reset.res.tag.setWidth 32) = (0x10, (0 : Word))
      ∧ ∀ n ∈ [0x01, 0x08, 0x1D, 0x1E],
        (n = 0x01 ∨ 0x08 ≤ n) ∧ (next (.regWrite n 3) State.reset).inputs = .regWrite n 3 :: [] := by decide

theorem witness_cellWriteStoresOneCell :
    (255 < State.reset.cfg.txCapacity ∧ 2047 < State.reset.cfg.ptxtCapacity
      ∧ State.reset.cells .txbuf ≤ 256 ∧ State.reset.cells .ptxt ≤ 2048)
      ∧ (next (.memWrite .txbuf 255 7) State.reset).inputs = .memWrite .txbuf 255 7 :: []
      ∧ (next (.memWrite .ptxt 2047 7) State.reset).inputs = .memWrite .ptxt 2047 7 :: []
      ∧ (next (.memWrite .raw 0 7) State.reset).inputs = .memWrite .raw 0 7 :: [] := by decide

theorem witness_cellReadsExact :
    (ready [5, 6]).rcvstate = .ready ∧ 1 < (ready [5, 6]).rawlen.toNat
      ∧ 1 < (ready [5, 6]).cfg.rawCapacity ∧ (ready [5, 6]).cells .snapraw ≤ 101
      ∧ (next (.memRead .raw 1) (ready [5, 6])).inputs = .memRead .raw 1 :: []
      ∧ (next (.regRead 0x08) (ready [5, 6])).inputs = .regRead 0x08 :: []
      ∧ (next (.memRead .snapraw 101) (ready [5, 6])).inputs = .memRead .snapraw 101 :: [] := by decide

theorem witness_cellReadsExact_otherSpaces :
    (let s := next (.memRead .snapraw 1) (afterEvent (.regWrite 0 0x06) (ready [5, 6]));
      s.inputs = .memRead .snapraw 1 :: [] ∧ 1 < s.snap.rawlen.toNat ∧ 1 < s.cfg.rawCapacity
        ∧ s.snapCell 1 = 6)
      ∧ (next (.memRead .txbuf 255) State.reset).inputs = .memRead .txbuf 255 :: []
      ∧ 255 < State.reset.cfg.txCapacity
      ∧ (next (.memRead .ptxt 2047) State.reset).inputs = .memRead .ptxt 2047 :: []
      ∧ 2047 < State.reset.cfg.ptxtCapacity := by decide

theorem witness_hostReadsHaveNoSideEffect :
    (next (.regRead 0x08) State.reset).inputs = .regRead 0x08 :: []
      ∧ (∃ n, Input.regRead 0x08 = .regRead n)
      ∧ (next (.memRead .raw 0) State.reset).inputs = .memRead .raw 0 :: []
      ∧ ∃ sp i, Input.memRead .raw 0 = .memRead sp i := ⟨rfl, ⟨_, rfl⟩, rfl, ⟨_, _, rfl⟩⟩

theorem witness_rstRestoresResetState : (next .rst (ready [5])).inputs = .rst :: [] := by decide

/-- The ends of two rows of R245 (560 and 1690), as ends of the interval clause too. -/
theorem witness_matcherBandsAndExamples :
    (10 ≤ 11 ∧ 11 ≤ 17 ∧ matchMark defaultConfig 10 560 = true ∧ matchMark defaultConfig 17 560 = true)
      ∧ (23 ≤ 39 ∧ 39 ≤ 41 ∧ matchSpace defaultConfig 23 1690 = true ∧ matchSpace defaultConfig 41 1690 = true)
      ∧ matchSpace defaultConfig 22 1690 = false ∧ matchSpace defaultConfig 42 1690 = false := by decide

theorem witness_cellCountSolvesLength :
    cellCount defaultTable.nec 68 true = .ok 32 ∧ cellCount defaultTable.sony 26 true = .ok 12
      ∧ cellCount defaultTable.jvc 34 false = .ok 16
      ∧ cellCount defaultTable.nec 67 true = .error .noMatchLength := by decide

/-- Every entry of a two-cell frame at the lower end of its band (R246). -/
theorem witness_frameWithinToleranceDecodes_distance :
    let d := { defaultTable.nec with nmin := 2, nmax := 2 }
    d.nmin ≤ 2 ∧ 2 ≤ d.nmax ∧ 2 < 2 ^ 2
      ∧ (d.kind = .distance → ∀ m, matchSpace defaultConfig m d.zeroSpace = true →
          matchSpace defaultConfig m d.oneSpace = false)
      ∧ d.kind ≠ .width
      ∧ Within defaultConfig .mark (encFrame d 2 2 true) [136, 65, 10, 23, 10, 6, 10] := by
  exact ⟨by decide, by decide, by decide, fun _ _ h => matchUs_below (by decide) h, by decide, by decide,
    by decide, by decide, by decide, by decide, by decide, by decide, trivial⟩

theorem witness_frameWithinToleranceDecodes_width :
    let d := { defaultTable.sony with nmin := 1, nmax := 1 }
    d.nmin ≤ 1 ∧ 1 ≤ d.nmax ∧ 1 < 2 ^ 1 ∧ d.kind ≠ .distance
      ∧ (d.kind = .width → 1 ≤ 1 ∧ d.preMark = 0
        ∧ ∀ m, matchMark defaultConfig m d.zeroMark = true → matchMark defaultConfig m d.oneMark = false)
      ∧ Within defaultConfig .mark (encFrame d 1 1 true) [48, 12, 24] := by
  exact ⟨by decide, by decide, by decide, by decide,
    fun _ => ⟨by decide, by decide, fun _ h => matchUs_below (by decide) h⟩, by decide, by decide, by decide,
    trivial⟩

theorem witness_decodedFrameIsWithinTolerance :
    1 ≤ defaultTable.nec.nmin ∧ decFrame defaultConfig defaultTable.nec necCapture true = .ok (0x20DF10EF, 32)
      ∧ decFrame defaultConfig defaultTable.sony sonyCapture true = .ok (0xA90, 12) := by decide

theorem witness_decodersIgnorePreroll :
    Protocol.nec ≠ .jvc ∧ (runDecoder defaultConfig necCapture 0 .nec).isSome = true := by decide

theorem witness_necRepeatDistinctFromData :
    decNec defaultConfig [1000, 180, 45, 11] 0 = .ok ⟨0xFFFFFFFF, 0, 0⟩
      ∧ decNec defaultConfig necCapture 0 = .ok ⟨0x20DF10EF, 0, 32⟩ := by
  constructor <;> rfl

theorem witness_jvcHeaderlessNeedsPriorJvc :
    decJvc defaultConfig jvcCapture 0 = .ok ⟨0xC5E8, 0, 16⟩
      ∧ decJvc defaultConfig (1200 :: jvcCapture.drop 3) 6 = .ok ⟨0xC5E8, 0, 16⟩ := by
  constructor <;> rfl

theorem witness_pulseRoundTrip :
    2 ^ 32 - 1 < 2 ^ 32 ∧ (12 ≤ 12 ∧ 12 ≤ 32 ∧ 2 ^ 12 - 1 < 2 ^ 12)
      ∧ (12 ≤ 32 ∧ 32 ≤ 32 ∧ 2 ^ 32 - 1 < 2 ^ 32) ∧ 2 ^ 16 - 1 < 2 ^ 16
      ∧ ((6 : Byte) = 6 ∧ 1200 ≤ 1200) ∧ 2 ^ 28 - 1 < 2 ^ 28 ∧ 2 ^ 15 - 1 < 2 ^ 15
      ∧ (2 ^ 4 - 1 < 2 ^ 4 ∧ 2 ^ 10 - 1 < 2 ^ 10) ∧ 2 ^ 12 - 1 < 2 ^ 12 := by decide

theorem witness_rc5RoundTrip :
    (10 ≤ 10 ∧ 10 ≤ 32 ∧ 0 < 2 ^ 10) ∧ 10 ≤ 32 ∧ 32 ≤ 32 ∧ 2 ^ 32 - 1 < 2 ^ 32 := by decide

theorem witness_rc6RoundTrip :
    (1 ≤ 1 ∧ 1 ≤ 32 ∧ 1 < 2 ^ 1) ∧ 1 ≤ 32 ∧ 32 ≤ 32 ∧ 2 ^ 32 - 1 < 2 ^ 32 := by decide

theorem witness_dispatchFirstMatchWins_match :
    defaultConfig.decodeOrder = [.rc5, .rc6] ++ .nec :: [.sony, .panasonic, .jvc, .samsung, .whynter, .aiwa,
        .lg, .sanyo, .mitsubishi, .denon]
      ∧ (∀ q ∈ [Protocol.rc5, .rc6], defaultConfig.decEnabled q = true →
          (runDecoder defaultConfig necCapture 0 q).isNone = true)
      ∧ defaultConfig.decEnabled .nec = true
      ∧ (runDecoder defaultConfig necCapture 0 .nec).isSome = true := by decide

theorem witness_dispatchFirstMatchWins_none :
    ∀ q ∈ defaultConfig.decodeOrder, defaultConfig.decEnabled q = true →
      (runDecoder defaultConfig [1000, 20] 0 q).isNone = true := by decide

theorem witness_rxDecodeWritesResult :
    (ready [1000, 20]).rcvstate = .ready
      ∧ dispatch (ready [1000, 20]).cfg (ready [1000, 20]).capture (ready [1000, 20]).lastTag
        = (0xFF, ⟨0x811C9DC5, 0, 0⟩) := ⟨by decide, rfl⟩

theorem witness_rxDecodeCopyOwnsItsCells :
    (ready necCapture).rcvstate = .ready
      ∧ dispatch (ready necCapture).cfg (ready necCapture).capture (ready necCapture).lastTag
        = (3, ⟨0x20DF10EF, 0, 32⟩) := ⟨by decide, rfl⟩

theorem witness_decodesWaitForReady :
    State.reset.rcvstate ≠ .ready ∧ (active .mark 0 [5]).rcvstate ≠ .ready
      ∧ (∀ p : Protocol, p ≠ .dish → p ≠ .sharp → State.reset.cfg.decEnabled p = true) := by
  refine ⟨by decide, by decide, fun p => ?_⟩
  cases p <;> decide

theorem witness_availableAsksOneDecoder :
    (ready [5]).rcvstate = .ready
      ∧ (∀ p : Protocol, p ≠ .dish → p ≠ .sharp → (ready [5]).cfg.decEnabled p = true) := by
  refine ⟨by decide, fun p => ?_⟩
  cases p <;> decide

theorem witness_rxDecodeNamesTheSender :
    (ready necCapture).cfg = defaultConfig ∧ (ready necCapture).rcvstate = .ready
      ∧ 0x20DF10EF < 2 ^ 32 ∧ 0x4004 < 2 ^ 16
      ∧ (ready necCapture).capture
        = idealCapture .nearest 1000 (encFrame defaultTable.nec 0x20DF10EF 32 true)
      ∧ (ready jvcCapture).capture
        = idealCapture .nearest 1000 (encFrame defaultTable.jvc (0xC5E8 % 2 ^ 16) 16 true)
      ∧ (ready lgCapture).capture
        = idealCapture .nearest 1000 (encFrame defaultTable.lg (0x88C0051 % 2 ^ 28) 28 true) := by decide

theorem witness_rxDecodeNamesTheSender_more :
    (ready panasonicCapture).capture = idealCapture .nearest 1000
        (encFrame defaultTable.panasonic (0x4004 * 2 ^ 32 + 0x0100BCBD) 48 true)
      ∧ (ready samsungCapture).capture
        = idealCapture .nearest 1000 (encFrame defaultTable.samsung 0xE0E040BF 32 true)
      ∧ (ready whynterCapture).capture
        = idealCapture .nearest 1000 (encFrame defaultTable.whynter 0x87654321 32 true)
      ∧ (ready aiwaCapture).capture = idealCapture .nearest 1000
        (encFrame defaultTable.aiwa (aiwaWord defaultConfig (0x1234 % 2 ^ 15)) 42 true)
      ∧ (ready denonCapture).capture = idealCapture .nearest 1000
        (encFrame defaultTable.denon (9 % 2 ^ 4 * 2 ^ 10 + 0x2A5 % 2 ^ 10) 14 true) := by decide

/-- The SONY, RC5 and RC6 vectors of section 5, and the headerless JVC frame at the longest gap. -/
theorem witness_rxDecodeNamesTheSender_ranges :
    (12 ≤ 12 ∧ 12 ≤ 32 ∧ (ready sonyCapture).capture
        = idealCapture .nearest 1000 (encFrame defaultTable.sony (0xA90 % 2 ^ 12) 12 true))
      ∧ (let s := { ready (1200 :: jvcCapture.drop 3) with lastTag := 6 };
        s.lastTag = 6 ∧ 1200 ≤ 1200 ∧ s.cfg = defaultConfig ∧ s.rcvstate = .ready
          ∧ s.capture = idealCapture .nearest 1200 (encFrame defaultTable.jvc (0xC5E8 % 2 ^ 16) 16 false))
      ∧ (10 ≤ 12 ∧ 12 ≤ 32 ∧ (ready rc5Capture).capture
        = idealCapture .nearest 1000 (encRc5 defaultTable.rc5 (0x5A5 % 2 ^ 12) 12))
      ∧ (1 ≤ 20 ∧ 20 ≤ 32 ∧ (ready rc6Capture).capture
        = idealCapture .nearest 1000 (encRc6 defaultTable.rc6 (0xC800F % 2 ^ 20) 20)) := by decide

theorem witness_hashTellsOneCodeApart :
    hashCodes defaultConfig [1000, 20, 15, 20] = [0] ++ 2 :: []
      ∧ hashCodes defaultConfig [1000, 20, 10, 10] = [0] ++ 1 :: [] ∧ (2 : Word) ≠ 1 := by decide

theorem witness_hashIgnoresScaleAndPreroll : 0 < 3 := by decide

theorem witness_framePlanLayout :
    1 ≤ 12 ∧ defaultTable.nec.kind = .distance ∧ defaultTable.sony.kind = .width
      ∧ defaultTable.sony.preMark = 0 := by decide

theorem witness_planElementsBecomeSegments :
    [9000, 4500, 560][1]? = some 4500 ∧ [9000, 4500, 560][2]? = some 560 := by decide

theorem witness_sendPlaysValueFrame :
    (∀ p ∈ [Protocol.nec, .sony, .jvc, .samsung, .whynter, .lg, .dish],
        State.reset.cfg.encEnabled p = true)
      ∧ (1 ≤ (operands 5 0 1).argNbits.toNat ∧ (operands 5 0 1).argNbits.toNat ≤ 32)
      ∧ 1 ≤ (operands 5 0 32).argNbits.toNat ∧ (operands 5 0 32).argNbits.toNat ≤ 32 := by decide

theorem witness_sendPlaysFixedFrame :
    ∀ p ∈ [Protocol.panasonic, .aiwa, .denon, .sharp], State.reset.cfg.encEnabled p = true := by decide

theorem witness_sendPlaysBiphasePlan :
    (1 ≤ (operands 5 0 1).argNbits.toNat ∧ (operands 5 0 1).argNbits.toNat ≤ 32)
      ∧ (1 ≤ (operands 5 0 32).argNbits.toNat ∧ (operands 5 0 32).argNbits.toNat ≤ 32)
      ∧ State.reset.cfg.encEnabled .rc5 = true ∧ State.reset.cfg.encEnabled .rc6 = true
      ∧ 1 ≤ defaultTable.rc5.t1 ∧ 1 ≤ defaultTable.rc6.t1 := by decide

theorem witness_sendRawPlaysTxbuf :
    let s := { State.reset with argLen := 256, argKhz := 1 }
    (s.argLen.toNat ≤ s.cfg.txCapacity ∧ s.argKhz ≠ 0)
      ∧ State.reset.cfg.txCapacity < (257 : Half).toNat ∧ State.reset.argKhz = 0 := by decide

theorem witness_illegalOperandOrCodecChangesOnlyStatus :
    ((operands 5 0 0).argNbits.toNat = 0 ∧ 32 < (operands 5 0 33).argNbits.toNat)
      ∧ State.reset.cfg.ptxtCapacity < (2049 : Half).toNat
      ∧ Protocol.nec ∉ ({ defaultConfig with enableDec := [] } : Config).enableDec
      ∧ Protocol.nec ∉ ({ defaultConfig with enableEnc := [] } : Config).enableEnc := by decide

theorem witness_prontoSelection : [5, 6] ≠ [] := by decide

/-- Four characters spell the word of their digits. -/
theorem spellsField_of {a b c d : Nat} {ca cb cc cd : Byte}
    (h : a < 16 ∧ b < 16 ∧ c < 16 ∧ d < 16)
    (hc : ca ∈ digitChars a ∧ cb ∈ digitChars b ∧ cc ∈ digitChars c ∧ cd ∈ digitChars d) :
    SpellsField [ca, cb, cc, cd] (4096 * a + 256 * b + 16 * c + d) :=
  ⟨a, b, c, d, h.1, h.2.1, h.2.2.1, h.2.2.2, rfl, ca, hc.1, cb, hc.2.1, cc, hc.2.2.1, cd, hc.2.2.2, rfl⟩

/-- The text of R471 (a), no space after its last field: the once sequence is there and short enough, and the
repeat sequence is empty. -/
theorem witness_prontoTextPlaysItsWords :
    let body := [0x0156, 0x00AB, 0x0015, 0x05F0]
    let s := pronto prontoExample 0
    s.argLen.toNat ≤ s.cfg.ptxtCapacity ∧ SpellsWords s.pronText (0 :: 0x006D :: 2 :: 0 :: body)
      ∧ 0x006D ≠ 0 ∧ body.length = 2 * (2 + 0)
      ∧ (10 ^ 12 / (0x006D * s.cfg.prontoUnitPs) + 500) / 1000 ≠ 0
      ∧ body.take (2 * 2) ≠ [] ∧ (body.take (2 * 2)).length ≤ s.cfg.txCapacity
      ∧ body.drop (2 * 2) = [] := by
  refine ⟨by decide, ?_, by decide, by decide, by decide, by decide, by decide, by decide⟩
  exact .field 0 (spellsField_of (a := 0) (b := 0) (c := 0) (d := 0) (by decide) (by decide))
    (.field 0 (spellsField_of (a := 0) (b := 0) (c := 6) (d := 13) (by decide) (by decide))
    (.field 0 (spellsField_of (a := 0) (b := 0) (c := 0) (d := 2) (by decide) (by decide))
    (.field 0 (spellsField_of (a := 0) (b := 0) (c := 0) (d := 0) (by decide) (by decide))
    (.field 0 (spellsField_of (a := 0) (b := 1) (c := 5) (d := 6) (by decide) (by decide))
    (.field 0 (spellsField_of (a := 0) (b := 0) (c := 10) (d := 11) (by decide) (by decide))
    (.field 0 (spellsField_of (a := 0) (b := 0) (c := 1) (d := 5) (by decide) (by decide))
    (.last 0 (spellsField_of (a := 0) (b := 5) (c := 15) (d := 0) (by decide) (by decide)))))))))

/-- The text of R471 (g): leading and repeated spaces and lower case. -/
def prontoSpaced : List Nat :=
  [32, 32, 48, 48, 48, 48, 32, 32, 48, 48, 54, 100, 32, 48, 48, 48, 49, 32, 48, 48, 48, 48, 32, 48, 49, 53,
   54, 32, 48, 48, 97, 98, 32, 32]

/-- R471 (g), and the same text where TX_CAPACITY is below its two durations. -/
theorem witness_prontoTextPlaysItsWords_spaced :
    let s := { pronto prontoSpaced 0 with cfg := { defaultConfig with txCapacity := 1 } }
    SpellsWords s.pronText [0, 0x006D, 1, 0, 0x0156, 0x00AB]
      ∧ (10 ^ 12 / (0x006D * s.cfg.prontoUnitPs) + 500) / 1000 ≠ 0
      ∧ s.cfg.txCapacity < ([0x0156, 0x00AB].take (2 * 1)).length
      ∧ (after .sendPronto (pronto prontoSpaced 0)).txout = played 38 [8993, 4497]
      ∧ (after .sendPronto s).status = 0x00 := by
  refine ⟨?_, by decide, by decide, by decide, by decide⟩
  exact .field 2 (spellsField_of (a := 0) (b := 0) (c := 0) (d := 0) (by decide) (by decide))
    (.field 1 (spellsField_of (a := 0) (b := 0) (c := 6) (d := 13) (by decide) (by decide))
    (.field 0 (spellsField_of (a := 0) (b := 0) (c := 0) (d := 1) (by decide) (by decide))
    (.field 0 (spellsField_of (a := 0) (b := 0) (c := 0) (d := 0) (by decide) (by decide))
    (.field 0 (spellsField_of (a := 0) (b := 1) (c := 5) (d := 6) (by decide) (by decide))
    (.field 0 (spellsField_of (a := 0) (b := 0) (c := 10) (d := 11) (by decide) (by decide))
    (.spaces 1))))))

theorem witness_prontoFailsClosed :
    (after .sendPronto (pronto prontoExample 1)).statusOk = false
      ∧ ∃ t, exec .sendPronto (pronto prontoExample 1) = .next t := ⟨by decide, _, rfl⟩

/-- R471 (f): a field with `G`, no field at all, and the four-field text of carrier code 0xFFFF, which is a marker
of 0, counts of 0 and 0 kHz. -/
theorem witness_prontoFailsClosed_malformed :
    (let s := pronto [48, 48, 48, 48, 32, 48, 48, 65, 71] 0;
      s.argLen.toNat ≤ s.cfg.ptxtCapacity ∧ FieldOf [48, 48, 65, 71] s.pronText
        ∧ ¬ ∃ w, SpellsField [48, 48, 65, 71] w)
      ∧ SpellsWords (pronto [] 0).pronText [] ∧ ([] : List Nat).length < 4
      ∧ SpellsWords (pronto [48, 48, 48, 48, 32, 70, 70, 70, 70, 32, 48, 48, 48, 48, 32, 48, 48, 48, 48] 0).pronText
          (0 :: 0xFFFF :: 0 :: 0 :: [])
      ∧ 1 ≤ 0xFFFF * defaultConfig.prontoUnitPs
      ∧ (10 ^ 12 / (0xFFFF * defaultConfig.prontoUnitPs) + 500) / 1000 = 0 := by
  refine ⟨⟨by decide, ⟨by decide, by decide, [48, 48, 48, 48, 32], [], by decide, by decide, by decide⟩, ?_⟩,
    .spaces 0, by decide, ?_, by decide, by decide⟩
  · rintro ⟨w, a, b, c, d, -, -, -, hd, -, ca, -, cb, -, cc, -, cd, hcd, hf⟩
    simp only [List.cons.injEq, and_true] at hf
    obtain ⟨-, -, -, rfl⟩ := hf
    exact absurd hcd ((by decide : ∀ d < 16, (71 : Byte) ∉ digitChars d) d hd)
  · exact .field 0 (spellsField_of (a := 0) (b := 0) (c := 0) (d := 0) (by decide) (by decide))
      (.field 0 (spellsField_of (a := 15) (b := 15) (c := 15) (d := 15) (by decide) (by decide))
      (.field 0 (spellsField_of (a := 0) (b := 0) (c := 0) (d := 0) (by decide) (by decide))
      (.last 0 (spellsField_of (a := 0) (b := 0) (c := 0) (d := 0) (by decide) (by decide)))))

/-- The other malformed words of R461: a marker of 1, a carrier code of 0, and a body of no field for one pair. -/
theorem witness_prontoFailsClosed_words :
    1 ≠ 0 ∧ 0 = 0 ∧ ([] : List Nat).length ≠ 2 * (1 + 0)
      ∧ SpellsWords (pronto [48, 48, 48, 49, 32, 48, 48, 48, 48, 32, 48, 48, 48, 49, 32, 48, 48, 48, 48] 0).pronText
          (1 :: 0 :: 1 :: 0 :: []) := by
  refine ⟨by decide, by decide, by decide, ?_⟩
  exact .field 0 (spellsField_of (a := 0) (b := 0) (c := 0) (d := 1) (by decide) (by decide))
    (.field 0 (spellsField_of (a := 0) (b := 0) (c := 0) (d := 0) (by decide) (by decide))
    (.field 0 (spellsField_of (a := 0) (b := 0) (c := 0) (d := 1) (by decide) (by decide))
    (.last 0 (spellsField_of (a := 0) (b := 0) (c := 0) (d := 0) (by decide) (by decide)))))

end Sys2Proof.Tests
end

section
/-! PROOFS. Illegal operands and codecs that are not enabled (R12, R172, R173, R175, R178): what the operand and
codec checks refuse, which check each command goes through, and the obligation. -/

namespace Sys2Proof.Machine

-- What the checks refuse

theorem decEnabled_of_not_mem {c : Config} {p : Protocol} (h : p ∉ c.enableDec) :
    c.decEnabled p = false := by
  simp [Config.decEnabled, h]

theorem encEnabled_of_not_mem {c : Config} {p : Protocol} (h : p ∉ c.enableEnc) :
    c.encEnabled p = false := by
  simp [Config.encEnabled, h]

theorem State.nbitsLegal_eq_false_iff (s : State) :
    s.nbitsLegal = false ↔ s.argNbits.toNat = 0 ∨ 32 < s.argNbits.toNat := by
  simp only [State.nbitsLegal, Bool.and_eq_false_iff, decide_eq_false_iff_not]
  omega

theorem State.prontoLegal_eq_false_iff (s : State) :
    s.prontoLegal = false ↔ s.cfg.ptxtCapacity < s.argLen.toNat := by
  simp [State.prontoLegal]

-- A refused check ends in the illegal command

theorem State.available_of_disabled {s : State} {p : Protocol} (h : s.cfg.decEnabled p = false) :
    s.available p = s.illegal := by
  simp [State.available, h]

theorem State.send_of_disabled {s : State} {p : Protocol} (h : s.cfg.encEnabled p = false)
    (legal : Bool) (plan : List Nat) (khz : Nat) : s.send p legal plan khz = s.illegal := by
  rcases s.send_effect p legal plan khz with ⟨hillegal, -⟩ | ⟨-, henabled, -⟩
  · exact hillegal
  · simp [h] at henabled

theorem State.send_of_not_legal (s : State) (p : Protocol) (plan : List Nat) (khz : Nat) :
    s.send p false plan khz = s.illegal := by
  rcases s.send_effect p false plan khz with ⟨hillegal, -⟩ | ⟨-, -, hlegal⟩
  · exact hillegal
  · cases hlegal

theorem exec_sendPronto_of_not_legal {s : State} (h : s.prontoLegal = false) :
    exec .sendPronto s = .next s.illegal := by
  simp [exec, execSendPronto, h]

-- Which check each command goes through

/-- The AVAILABLE commands that ask a decoder ENABLE_DEC can switch off, each with its protocol (R172). -/
def availableCommands : List (Instr × Protocol) :=
  [(.availableRc5, .rc5), (.availableRc6, .rc6), (.availableNec, .nec), (.availableSony, .sony),
   (.availablePanasonic, .panasonic), (.availableJvc, .jvc), (.availableSamsung, .samsung),
   (.availableWhynter, .whynter), (.availableAiwa, .aiwa), (.availableLg, .lg),
   (.availableSanyo, .sanyo), (.availableMitsubishi, .mitsubishi), (.availableDenon, .denon)]

theorem exec_of_mem_availableCommands {x : Instr × Protocol} (hx : x ∈ availableCommands) (s : State) :
    exec x.1 s = .next (s.available x.2) := by
  fin_cases hx <;> rfl

/-- The SEND commands of an encoder, each with its protocol (R173). -/
def protocolSends : List (Instr × Protocol) :=
  [(.sendRc5, .rc5), (.sendRc6, .rc6), (.sendNec, .nec), (.sendSony, .sony), (.sendPanasonic, .panasonic),
   (.sendJvc, .jvc), (.sendSamsung, .samsung), (.sendWhynter, .whynter), (.sendAiwa, .aiwa), (.sendLg, .lg),
   (.sendDenon, .denon), (.sendDish, .dish), (.sendSharp, .sharp)]

theorem exec_of_mem_protocolSends {x : Instr × Protocol} (hx : x ∈ protocolSends) (s : State) :
    ∃ legal plan khz, exec x.1 s = .next (s.send x.2 legal plan khz) := by
  fin_cases hx <;> exact ⟨_, _, _, rfl⟩

/-- The SEND commands that read `arg_nbits` (R175). -/
def countedSends : List Instr :=
  [.sendRc5, .sendRc6, .sendNec, .sendSony, .sendJvc, .sendSamsung, .sendWhynter, .sendLg, .sendDish]

theorem exec_of_mem_countedSends {i : Instr} (hi : i ∈ countedSends) (s : State) :
    ∃ p plan khz, exec i s = .next (s.send p s.nbitsLegal plan khz) := by
  fin_cases hi <;> exact ⟨_, _, _, rfl⟩

/-- Settles O57: every command named goes through one check, and the hypothesis is that this check fails. -/
theorem illegalOperandOrCodecChangesOnlyStatus :
    Obligations.IllegalOperandOrCodecChangesOnlyStatus := by
  intro s i h
  change exec i s = .next s.illegal
  rcases h with ⟨hi, hnbits⟩ | ⟨rfl, hlen⟩ | ⟨p, hdisabled, hi⟩ | ⟨p, hdisabled, hi⟩
  · obtain ⟨p, plan, khz, hexec⟩ := exec_of_mem_countedSends hi s
    rw [hexec, s.nbitsLegal_eq_false_iff.mpr hnbits, State.send_of_not_legal]
  · exact exec_sendPronto_of_not_legal (s.prontoLegal_eq_false_iff.mpr hlen)
  · rw [exec_of_mem_availableCommands hi, State.available_of_disabled (decEnabled_of_not_mem hdisabled)]
  · obtain ⟨legal, plan, khz, hexec⟩ := exec_of_mem_protocolSends hi s
    rw [hexec, State.send_of_disabled (encEnabled_of_not_mem hdisabled)]

end Sys2Proof.Machine
end

section
/-! PROOFS. What the decoders can report (R60, R63, R192): the bounds that a well-formed descriptor table puts on the
cell counts, and with them on the bit count and the address of every result. -/

namespace Sys2Proof

-- What Config.wf says of single parameters

theorem Config.wf_rawCapacity {c : Config} (h : c.wf = true) : 2 ≤ c.rawCapacity ∧ c.rawCapacity ≤ 65535 := by
  simp only [Config.wf, Config.wfCapacity, Bool.and_eq_true, decide_eq_true_eq] at h
  tauto

theorem Config.wf_sampleMax {c : Config} (h : c.wf = true) : 2 ≤ c.sampleMax ∧ c.sampleMax ≤ 65535 := by
  simp only [Config.wf, Config.wfIdleGap, Config.wfSample, Bool.and_eq_true, decide_eq_true_eq] at h
  omega

theorem Config.wf_table {c : Config} (h : c.wf = true) : c.table.wf c.tolPct = true := by
  simp only [Config.wf, Bool.and_eq_true] at h
  tauto

/-- A protocol's tag is neither of the two tags that stand for no protocol (R54, R180). -/
theorem Protocol.tag_ne (p : Protocol) : p.tag ≠ tagUnknown ∧ p.tag ≠ tagUnused := by
  cases p <;> decide

-- The cell counts a well-formed table admits

theorem FrameDescriptor.nmax_le_of_wf {tol : Nat} {d : FrameDescriptor} (h : d.wf tol = true) :
    d.nmax ≤ d.addrBits + 32 := by
  simp only [FrameDescriptor.wf, Bool.and_eq_true, decide_eq_true_eq] at h
  exact h.2

theorem BiphaseDescriptor.nmax_le_of_wf {tol : Nat} {d : BiphaseDescriptor} (h : d.wf tol = true) :
    d.nmax ≤ 32 := by
  simp only [BiphaseDescriptor.wf, Bool.and_eq_true, decide_eq_true_eq] at h
  exact h.1.2

theorem DescriptorTable.wf_biphase {tol : Nat} {t : DescriptorTable} (h : t.wf tol = true) :
    t.rc5.nmax ≤ 32 ∧ t.rc6.nmax ≤ 32 := by
  simp only [DescriptorTable.wf, Bool.and_eq_true] at h
  obtain ⟨⟨⟨⟨hrc5, hrc6⟩, -⟩, -⟩, -⟩ := h
  exact ⟨BiphaseDescriptor.nmax_le_of_wf hrc5, BiphaseDescriptor.nmax_le_of_wf hrc6⟩

theorem DescriptorTable.wf_split {tol : Nat} {t : DescriptorTable} (h : t.wf tol = true) :
    t.panasonic.nmax ≤ t.panasonic.addrBits + 32 ∧ t.denon.nmax ≤ t.denon.addrBits + 32 := by
  simp only [DescriptorTable.wf, Bool.and_eq_true] at h
  obtain ⟨⟨-, hrows⟩, -⟩ := h
  rw [List.all_eq_true] at hrows
  exact ⟨FrameDescriptor.nmax_le_of_wf (hrows _ (by simp)), FrameDescriptor.nmax_le_of_wf (hrows _ (by simp))⟩

/-- The rows whose results carry all cells in `value` (R192), AIWA apart. -/
def DescriptorTable.valueRows (t : DescriptorTable) : List FrameDescriptor :=
  [t.nec, t.sony, t.jvc, t.samsung, t.whynter, t.lg, t.sanyo, t.mitsubishi]

theorem DescriptorTable.wf_valueRows {tol : Nat} {t : DescriptorTable} (h : t.wf tol = true)
    {d : FrameDescriptor} (hd : d ∈ t.valueRows) : d.nmax ≤ 32 := by
  simp only [DescriptorTable.wf, Bool.and_eq_true, List.all_eq_true] at h
  obtain ⟨⟨-, hrows⟩, hvalue⟩ := h
  have hwf := FrameDescriptor.nmax_le_of_wf (hrows d (by simp [DescriptorTable.valueRows] at hd ⊢; tauto))
  have hzero : d.addrBits = 0 := by
    simpa [FrameDescriptor.valueOnly] using hvalue d hd
  omega

end Sys2Proof

namespace Sys2Proof.Machine

-- What the frame readers report

theorem cellCount_le {d : FrameDescriptor} {rawlen n : Nat} {header : Bool}
    (h : cellCount d rawlen header = .ok n) : n ≤ d.nmax := by
  unfold cellCount at h
  extract_lets p q rem at h
  split at h
  · cases h
  · split at h
    · cases h
    · injection h; omega

theorem decFrame_le {c : Config} {d : FrameDescriptor} {raw : List Nat} {header : Bool} {fn : Nat × Nat}
    (h : decFrame c d raw header = .ok fn) : fn.2 ≤ d.nmax := by
  cases hcount : cellCount d raw.length header with
  | error e => simp [decFrame, hcount, bind, Except.bind] at h
  | ok n =>
    suffices hn : fn.2 = n from hn ▸ cellCount_le hcount
    simp only [decFrame, hcount, bind, Except.bind] at h
    repeat' split at h
    all_goals cases h
    rfl

theorem readBiphase_le {c : Config} {d : BiphaseDescriptor} {one : Level} {dbl : Option Nat} {raw : List Nat}
    {fuel v n : Nat} {k : Cursor} {vn : Nat × Nat} (hn : n ≤ d.nmax)
    (h : readBiphase c d one dbl raw fuel k v n = .ok vn) : vn.2 ≤ d.nmax := by
  induction fuel generalizing k v n with
  | zero => simp [readBiphase] at h
  | succ fuel ih =>
    rw [readBiphase] at h
    split at h
    · cases h; exact hn
    · repeat' split at h
      all_goals first
        | cases h
        | exact ih (by omega) h

-- What the decoders report

/-- A result without an address and of at most 32 bits: what every decoder but two reports (R63, R192). -/
def Decoded.Plain (r : Decoded) : Prop := r.bits ≤ 32 ∧ r.address = 0

theorem map_eq_ok {α β : Type} {f : α → β} {r : Except Cause α} {b : β} (h : r.map f = .ok b) :
    ∃ a, r = .ok a ∧ f a = b := by
  cases r with
  | error e => cases h
  | ok a => cases h; exact ⟨a, rfl, rfl⟩

theorem decValueFrame_plain {c : Config} {d : FrameDescriptor} {raw : List Nat} {r : Decoded}
    (hd : d.nmax ≤ 32) (h : decValueFrame c d raw = .ok r) : r.Plain := by
  obtain ⟨fn, hfn, rfl⟩ := map_eq_ok h
  exact ⟨(decFrame_le hfn).trans hd, rfl⟩

theorem splitFrame_bits_le {d : FrameDescriptor} {n : Nat} (f : Nat) (hd : d.nmax ≤ d.addrBits + 32)
    (hn : n ≤ d.nmax) : (splitFrame d f n).bits ≤ 32 := by
  simp only [splitFrame]
  omega

theorem biphaseResult_plain {c : Config} {d : BiphaseDescriptor} {one : Level} {dbl : Option Nat}
    {raw : List Nat} {k : Cursor} {r : Decoded} (hd : d.nmax ≤ 32)
    (h : biphaseResult c d one dbl raw k = .ok r) : r.Plain := by
  unfold biphaseResult at h
  split at h
  · cases h
  · rename_i vn hvn
    split at h
    · cases h
    · cases h
      exact ⟨(readBiphase_le (Nat.zero_le _) hvn).trans hd, rfl⟩

theorem decRc5_plain {c : Config} {raw : List Nat} {tag : Byte} {r : Decoded} (hd : c.table.rc5.nmax ≤ 32)
    (h : decRc5 c raw tag = .ok r) : r.Plain := by
  simp only [decRc5] at h
  split at h
  · cases h
  · split at h
    · cases h
    · exact biphaseResult_plain hd h

theorem decRc6_plain {c : Config} {raw : List Nat} {tag : Byte} {r : Decoded} (hd : c.table.rc6.nmax ≤ 32)
    (h : decRc6 c raw tag = .ok r) : r.Plain := by
  simp only [decRc6] at h
  split at h
  · cases h
  · split at h
    · split at h
      · cases h
      · exact biphaseResult_plain hd h
    · cases h

theorem decNec_plain {c : Config} {raw : List Nat} {tag : Byte} {r : Decoded} (hd : c.table.nec.nmax ≤ 32)
    (h : decNec c raw tag = .ok r) : r.Plain := by
  unfold decNec at h
  split at h
  · split at h
    · cases h; exact ⟨Nat.zero_le _, rfl⟩
    · cases h
  · exact decValueFrame_plain hd h

theorem decJvc_plain {c : Config} {raw : List Nat} {tag : Byte} {r : Decoded} (hd : c.table.jvc.nmax ≤ 32)
    (h : decJvc c raw tag = .ok r) : r.Plain := by
  unfold decJvc at h
  split at h
  · rename_i hfn
    cases h; exact ⟨(decFrame_le hfn).trans hd, rfl⟩
  · split at h
    · split at h
      · rename_i hfn
        cases h; exact ⟨(decFrame_le hfn).trans hd, rfl⟩
      · cases h
    · cases h

theorem decAiwa_plain {c : Config} {raw : List Nat} {tag : Byte} {r : Decoded}
    (h : decAiwa c raw tag = .ok r) : r.Plain := by
  unfold decAiwa at h
  split at h
  · cases h
  · split at h
    · cases h; exact ⟨show 15 ≤ 32 by decide, rfl⟩
    · cases h

/-- What a result of protocol `p` keeps to (R63): 32 bits, and no address but for the two that have one. -/
def Decoded.Fits (p : Protocol) (r : Decoded) : Prop :=
  r.bits ≤ 32 ∧ (p ≠ .panasonic → p ≠ .denon → r.address = 0)

theorem Decoded.Plain.fits {r : Decoded} (h : r.Plain) (p : Protocol) : r.Fits p := ⟨h.1, fun _ _ => h.2⟩

theorem toOption_eq_some {r : Except Cause Decoded} {d : Decoded} (h : r.toOption = some d) : r = .ok d := by
  cases r with
  | error e => cases h
  | ok d' => cases h; rfl

theorem runDecoder_fits {c : Config} {raw : List Nat} {tag : Byte} {p : Protocol} {r : Decoded}
    (hc : c.wf = true) (h : runDecoder c raw tag p = some r) : r.Fits p := by
  have htable := Config.wf_table hc
  obtain ⟨hrc5, hrc6⟩ := DescriptorTable.wf_biphase htable
  obtain ⟨hpanasonic, hdenon⟩ := DescriptorTable.wf_split htable
  have hvalue := fun d => DescriptorTable.wf_valueRows htable (d := d)
  simp only [DescriptorTable.valueRows, List.mem_cons, List.not_mem_nil, or_false, forall_eq_or_imp,
    forall_eq] at hvalue
  obtain ⟨hnec, hsony, hjvc, hsamsung, hwhynter, hlg, hsanyo, hmitsubishi⟩ := hvalue
  cases p
  case dish | sharp => cases h
  all_goals replace h := toOption_eq_some h
  case rc5 => exact (decRc5_plain hrc5 h).fits _
  case rc6 => exact (decRc6_plain hrc6 h).fits _
  case nec => exact (decNec_plain hnec h).fits _
  case jvc => exact (decJvc_plain hjvc h).fits _
  case aiwa => exact (decAiwa_plain h).fits _
  case sony => exact (decValueFrame_plain hsony h).fits _
  case samsung => exact (decValueFrame_plain hsamsung h).fits _
  case whynter => exact (decValueFrame_plain hwhynter h).fits _
  case lg => exact (decValueFrame_plain hlg h).fits _
  case sanyo => exact (decValueFrame_plain hsanyo h).fits _
  case mitsubishi => exact (decValueFrame_plain hmitsubishi h).fits _
  case panasonic =>
    obtain ⟨fn, hfn, rfl⟩ := map_eq_ok h
    exact ⟨splitFrame_bits_le _ hpanasonic (decFrame_le hfn), fun hp _ => absurd rfl hp⟩
  case denon =>
    obtain ⟨fn, hfn, rfl⟩ := map_eq_ok h
    exact ⟨splitFrame_bits_le _ hdenon (decFrame_le hfn), fun _ hp => absurd rfl hp⟩

theorem firstMatch_some {c : Config} {raw : List Nat} {tag : Byte} {ps : List Protocol}
    {pd : Protocol × Decoded} (h : firstMatch c raw tag ps = some pd) :
    runDecoder c raw tag pd.1 = some pd.2 := by
  induction ps with
  | nil => cases h
  | cons p ps ih =>
    rw [firstMatch] at h
    split at h
    · split at h
      · rename_i d hd
        cases h; exact hd
      · exact ih h
    · exact ih h

/-- DISPATCH answers a decoder's result under its tag, or the HashDecoder's under UNKNOWN (R303). -/
theorem dispatch_cases (c : Config) (raw : List Nat) (tag : Byte) :
    (∃ p d, runDecoder c raw tag p = some d ∧ dispatch c raw tag = (p.tag, d))
      ∨ dispatch c raw tag = (tagUnknown, decHash c raw) := by
  unfold dispatch
  split
  · rename_i pd hpd
    exact .inl ⟨pd.1, pd.2, firstMatch_some hpd, rfl⟩
  · exact .inr rfl

/-- A decode's result record meets the invariants of R63. -/
theorem State.resultOf_dispatched_ok {s : State} (hc : s.cfg.wf = true) :
    (s.resultOf s.dispatched).Ok := by
  unfold State.dispatched
  rcases dispatch_cases s.cfg s.capture s.lastTag with ⟨p, d, hd, heq⟩ | heq
  · obtain ⟨hbits, haddr⟩ := runDecoder_fits hc hd
    obtain ⟨hunknown, hunused⟩ := p.tag_ne
    rw [heq]
    refine ⟨?_, ?_, ?_⟩
    · exact (Nat.mod_le _ _).trans hbits
    · rintro (h | h)
      · exact absurd h hunknown
      · exact absurd h hunused
    · intro hpanasonic hdenon
      have hzero := haddr (fun hp => hpanasonic (hp ▸ rfl)) (fun hp => hdenon (hp ▸ rfl))
      simp [State.resultOf, hzero]
  · rw [heq]
    exact ⟨Nat.zero_le _, fun _ => rfl, fun _ _ => rfl⟩

end Sys2Proof.Machine
end

section
/-! PROOFS. The invariant of the block (R59, R63, R502): the reset state meets it, and each part of a step keeps it, first
the parts of a TICK, then the HOST's accesses, then what a command can do. -/

namespace Sys2Proof.Machine

-- Reset

/-- A state at its reset values meets the invariant, whatever the parameters and the model's own fields are. -/
theorem inv_of_reset_values {c : Config} (hc : c.wf = true) (inputs : List Input) (reads : List Word)
    (draws epoch : Nat) :
    State.Inv { State.reset with
      cfg := c, inputs := inputs, hostReads := reads, draws := draws, epoch := epoch } where
  cfg := hc
  raw := ⟨rfl, rfl⟩
  snapraw := ⟨rfl, rfl⟩
  txbuf := ⟨rfl, rfl⟩
  ptxt := ⟨rfl, rfl⟩
  rawlen := Nat.zero_le _
  idle _ := ⟨rfl, rfl⟩
  busy h := absurd rfl h
  overflow h := nomatch h
  written _ hi := absurd hi (Nat.not_lt_zero _)
  samples _ hi := absurd hi (Nat.not_lt_zero _)
  counter := Nat.zero_le _
  res := ⟨Nat.zero_le _, fun _ => rfl, fun _ _ => rfl⟩
  snap := ⟨Nat.zero_le _, fun _ => rfl, fun _ _ => rfl⟩
  snapLen := Nat.zero_le _
  snapWritten _ hi := absurd hi (Nat.not_lt_zero _)
  status h := nomatch h.1

theorem defaultConfig_wf : defaultConfig.wf = true := by decide

/-- Settles O18: the default parameters meet their constraints, and every field has its reset value. -/
theorem resetMeetsBlockInvariant : Obligations.ResetMeetsBlockInvariant :=
  inv_of_reset_values defaultConfig_wf [] [] 0 0

-- Writes of a memory

variable {w : Nat} {m : Memory w}

theorem Memory.Fits.write {cells i : Nat} (h : m.Fits cells) (v : BitVec w) (hi : i < cells) :
    (m.write i v).Fits cells :=
  ⟨Memory.write_wf m i v h.1, Memory.write_below m i cells v hi h.2⟩

/-- A write at the end of the cells that hold something makes them one more. -/
theorem Memory.Holds.write_succ {n : Nat} (h : m.Holds n) (v : BitVec w) : (m.write n v).Holds (n + 1) := by
  intro i hi
  rw [Memory.find_write]
  split
  · rfl
  · exact h i (by omega)

theorem State.copyCells_fits {s : State} {n cells : Nat} (h : s.snapraw.Fits cells) (hn : n ≤ cells) :
    (s.copyCells n).Fits cells :=
  ⟨s.copyCells_wf n h.1, s.copyCells_below n cells hn h.2⟩

theorem State.copyCells_holds (s : State) (n : Nat) : (s.copyCells n).Holds n := by
  intro i hi
  simp [State.copyCells_find, hi]

-- The parts of a TICK (R263 to R267)

variable {s : State}

/-- The counter after the increment of R263: the cut to 16 bits loses nothing. -/
theorem State.Inv.count_counter (h : s.Inv) :
    s.count.counter.toNat = min (s.counter.toNat + 1) s.cfg.sampleMax := by
  have hmax := (Config.wf_sampleMax h.cfg).2
  simp only [State.count, satTicks, BitVec.toNat_ofNat]
  exact Nat.mod_eq_of_lt (by omega)

/-- What the increment leaves in the counter is a sample the block may store (R59). -/
theorem State.Inv.count_sample (h : s.Inv) :
    1 ≤ s.count.counter.toNat ∧ s.count.counter.toNat ≤ s.cfg.sampleMax := by
  have hmax := (Config.wf_sampleMax h.cfg).1
  rw [h.count_counter]
  omega

theorem State.Inv.count (h : s.Inv) : s.count.Inv :=
  { h with counter := h.count_sample.2 }

theorem State.Inv.edge (h : s.Inv) (level : Level) : (s.edge level).Inv :=
  { h with counter := Nat.zero_le _ }

/-- The first mark: one sample, and the capture runs (R57). -/
theorem State.Inv.startCapture (h : s.Inv) (hidle : s.rcvstate = .idle) (hcount : 1 ≤ s.counter.toNat) :
    s.startCapture.Inv := by
  have hcap := (Config.wf_rawCapacity h.cfg).1
  have hholds : (s.raw.write 0 s.counter).Holds 1 :=
    Memory.Holds.write_succ (fun i hi => absurd hi (Nat.not_lt_zero i)) s.counter
  have hnot : s.overflow = false := (h.idle hidle).2
  exact { h with
    raw := h.raw.write s.counter (by omega)
    rawlen := show 1 ≤ s.cfg.rawCapacity by omega
    idle := nofun
    busy := fun _ => le_refl 1
    overflow := fun ho => absurd (hnot.symm.trans ho) (by decide)
    written := hholds
    samples := by
      intro i hi
      obtain rfl : i = 0 := Nat.lt_one_iff.mp hi
      simpa [State.rawCell, cellOr_write] using ⟨hcount, h.counter⟩ }

/-- A push below the capacity (R264). -/
theorem State.Inv.push (h : s.Inv) (hactive : s.rcvstate = .active)
    (hroom : s.rawlen.toNat < s.cfg.rawCapacity) (hcount : 1 ≤ s.counter.toNat) : s.push.Inv := by
  have hcap := (Config.wf_rawCapacity h.cfg).2
  have hlen : s.push.rawlen.toNat = s.rawlen.toNat + 1 := by
    simp only [State.push_rawlen, BitVec.toNat_add]
    exact Nat.mod_eq_of_lt (by simp; omega)
  have hnot : s.overflow ≠ true := fun ho => by simpa [hactive] using (h.overflow ho).1
  exact { h with
    raw := h.raw.write s.counter hroom
    rawlen := by rw [hlen]; exact hroom
    idle := fun hidle => absurd (hactive.symm.trans hidle) (by decide)
    busy := fun _ => by rw [hlen]; omega
    overflow := fun ho => absurd ho hnot
    written := by rw [hlen]; exact h.written.write_succ s.counter
    samples := by
      intro i hi
      rw [hlen] at hi
      simp only [State.rawCell, State.push_raw, State.push_epoch, State.push_cfg, cellOr_write]
      split
      · exact ⟨hcount, h.counter⟩
      · exact h.samples i (by omega) }

/-- A sample dropped at the capacity (R265). -/
theorem State.Inv.overflowed (h : s.Inv) (hactive : s.rcvstate = .active)
    (hfull : s.cfg.rawCapacity ≤ s.rawlen.toNat) : s.overflowed.Inv :=
  { h with
    idle := nofun
    busy := fun _ => h.busy (by simp [hactive])
    overflow := fun _ => ⟨rfl, le_antisymm h.rawlen hfull⟩ }

/-- The end of a capture at the idle gap (R266). -/
theorem State.Inv.ended (h : s.Inv) (hactive : s.rcvstate = .active) :
    State.Inv { s with rcvstate := .ready } :=
  { h with
    idle := nofun
    busy := fun _ => h.busy (by simp [hactive])
    overflow := fun ho => ⟨rfl, (h.overflow ho).2⟩ }

theorem State.Inv.tickIdle (h : s.Inv) (level : Level) (hidle : s.rcvstate = .idle)
    (hcount : 1 ≤ s.counter.toNat) : (tickIdle level s).Inv := by
  unfold Machine.tickIdle
  split
  · exact h
  · split
    · exact (h.startCapture hidle hcount).edge level
    · exact h.edge level

theorem State.Inv.tickActive (h : s.Inv) (level : Level) (hactive : s.rcvstate = .active)
    (hcount : 1 ≤ s.counter.toNat) : (tickActive level s).Inv := by
  unfold Machine.tickActive
  split
  · split
    · exact h.ended hactive
    · exact h
  · split
    · next hfull => exact (h.overflowed hactive hfull).edge level
    · next hroom => exact (h.push hactive (Nat.lt_of_not_le hroom) hcount).edge level

theorem State.Inv.tickReady (h : s.Inv) (level : Level) : (tickReady level s).Inv := by
  unfold Machine.tickReady
  split
  · exact h
  · exact h.edge level

theorem State.Inv.tick (h : s.Inv) (level : Level) : (tick level s).Inv := by
  cases hen : s.rxEnable with
  | false => rwa [tick_disabled level s hen]
  | true =>
    have hcount := h.count_sample.1
    obtain ⟨hidle, heq⟩ | ⟨hactive, heq⟩ | ⟨-, heq⟩ := tick_enabled level s hen
    · rw [heq]; exact h.count.tickIdle level hidle hcount
    · rw [heq]; exact h.count.tickActive level hactive hcount
    · rw [heq]; exact h.count.tickReady level

-- The HOST's accesses and reset

theorem State.Inv.popped (h : s.Inv) (rest : List Input) : (s.popped rest).Inv := { h with }

theorem State.Inv.deliver (h : s.Inv) (v : Option Word) : (s.deliver v).Inv := by
  obtain ⟨reads, draws, heq⟩ := s.deliver_effect v
  rw [heq]
  exact { h with }

theorem State.Inv.regStore (h : s.Inv) (n v : Nat) : (s.regStore n v).Inv := by
  obtain ⟨av, aa, an, af, ak, al, heq⟩ := s.regStore_effect n v
  rw [heq]
  exact { h with }

theorem State.Inv.cellStore (h : s.Inv) (sp : Space) (i v : Nat) : (s.cellStore sp i v).Inv := by
  obtain heq | ⟨-, hi, heq⟩ | ⟨-, hi, heq⟩ := s.cellStore_effect sp i v
  · rwa [heq]
  · rw [heq]
    exact { h with txbuf := h.txbuf.write _ hi }
  · rw [heq]
    exact { h with ptxt := h.ptxt.write _ hi }

theorem State.Inv.afterRst (h : s.Inv) : s.afterRst.Inv :=
  inv_of_reset_values h.cfg s.inputs s.hostReads s.draws (s.epoch + 1)

theorem State.Inv.applyInput (h : s.Inv) (e : Input) : (applyInput s e).Inv := by
  cases e with
  | tick level => exact h.tick level
  | regWrite n v => exact h.regStore n v
  | regRead n => exact h.deliver _
  | memWrite sp i v => exact h.cellStore sp i v
  | memRead sp i => exact h.deliver _
  | rst => exact h.afterRst

-- Commands

theorem State.Inv.illegal (h : s.Inv) : s.illegal.Inv :=
  { h with status := by simp }

/-- RX_ENABLE and RX_RESUME empty the capture (R270, R272). -/
theorem State.Inv.emptied (h : s.Inv) : s.emptied.Inv :=
  { h with
    rawlen := Nat.zero_le _
    idle := fun _ => ⟨rfl, rfl⟩
    busy := fun hb => absurd rfl hb
    overflow := nofun
    written := fun _ hi => absurd hi (Nat.not_lt_zero _)
    samples := fun _ hi => absurd hi (Nat.not_lt_zero _) }

/-- Whatever a command does to a state that meets the invariant, the result meets it. -/
theorem State.Effect.inv {i : Instr} {t : State} (eff : s.Effect i t) (h : s.Inv) : t.Inv := by
  cases eff with
  | answer _ ok err hne => exact { h with status := hne }
  | enable => exact { h.emptied with counter := Nat.zero_le _, status := by simp }
  | disable => exact { h with status := by simp }
  | resume => exact { h.emptied with status := by simp }
  | decode _ => exact { h with res := State.resultOf_dispatched_ok h.cfg, status := by simp }
  | copy _ =>
    exact { h with
      snap := State.resultOf_dispatched_ok h.cfg
      snapLen := h.rawlen
      snapraw := State.copyCells_fits h.snapraw h.rawlen
      snapWritten := s.copyCells_holds s.rawlen.toNat
      status := by simp }
  | play _ plan khz => exact { h with status := by simp }

/-- Settles O17, by the four ways a step can come about. -/
theorem stepKeepsBlockInvariant : Obligations.StepKeepsBlockInvariant := by
  intro s t h hstep
  cases step_inv hstep with
  | wait _ => exact h
  | event e rest _ _ => exact (h.popped rest).applyInput e
  | command v rest _ i _ _ _ eff => exact eff.inv (h.popped rest)
  | illegal v rest _ e _ => exact (h.popped rest).illegal

end Sys2Proof.Machine
end

section
/-! PROOFS. What commands write and what they leave alone (R58, R66, R67, R75, R76, R402, R443, R502), and what an event
that is no command leaves alone. -/

namespace Sys2Proof.Machine

variable {s t : State} {i : Instr}

-- What every command leaves alone

theorem State.Effect.sameInputs (eff : s.Effect i t) : s.SameInputs t := by
  cases eff <;> exact ⟨rfl, rfl, rfl, rfl, rfl, rfl, rfl, rfl, rfl, rfl, rfl, rfl, rfl⟩

theorem State.Effect.raw_eq (eff : s.Effect i t) : t.raw = s.raw := by
  cases eff <;> rfl

theorem State.Effect.sampler_eq (eff : s.Effect i t) (henable : i ≠ .rxEnable) (hresume : i ≠ .rxResume) :
    t.rcvstate = s.rcvstate ∧ t.rawlen = s.rawlen ∧ t.overflow = s.overflow ∧ t.counter = s.counter
      ∧ t.curLevel = s.curLevel := by
  cases eff
  case enable => exact absurd rfl henable
  case resume => exact absurd rfl hresume
  all_goals exact ⟨rfl, rfl, rfl, rfl, rfl⟩

theorem State.Effect.status_exclusive (eff : s.Effect i t) :
    ¬ (t.statusOk = true ∧ t.statusCmderr = true) := by
  cases eff
  case answer _ _ hne => exact hne
  all_goals simp

/-- The cases of a command's effect, for the next state it answered. -/
theorem exec_inv (h : exec i s = .next t) : s.Effect i t := by
  obtain ⟨t', h', eff⟩ := exec_effect i s
  rw [h] at h'
  cases h'
  exact eff

/-- Settles O21: a cell reads what its memory and the count of resets say, and no command writes either. -/
theorem commandsLeaveCaptureAndOperandsAlone : Obligations.CommandsLeaveCaptureAndOperandsAlone := by
  intro i s t h
  have eff := exec_inv h
  obtain ⟨-, hvalue, haddr, hnbits, hflags, hkhz, hlen, htx, hpt, -, -, -, hepoch⟩ := eff.sameInputs
  refine ⟨fun j => ?_, eff.sampler_eq, hvalue, haddr, hnbits, hflags, hkhz, hlen, fun j => ?_, fun j => ?_⟩
  · simp only [State.rawCell, eff.raw_eq, hepoch]
  · simp only [State.txCell, htx, hepoch]
  · simp only [State.ptCell, hpt, hepoch]

-- What an event leaves alone that is neither a command nor reset

/-- The parts of the state that only commands and reset write: the results, the status bits, `rx_enable` and the
transmit output. -/
structure State.SameOutputs (s t : State) : Prop where
  rxEnable : t.rxEnable = s.rxEnable
  res : t.res = s.res
  snap : t.snap = s.snap
  snapraw : t.snapraw = s.snapraw
  lastTag : t.lastTag = s.lastTag
  statusOk : t.statusOk = s.statusOk
  statusCmderr : t.statusCmderr = s.statusCmderr
  txout : t.txout = s.txout
  epoch : t.epoch = s.epoch

theorem applyInput_sameOutputs (s : State) {e : Input} (he : e ≠ .rst) : s.SameOutputs (applyInput s e) := by
  cases e with
  | tick level =>
    obtain ⟨rcv, cur, cnt, raw, len, ovf, heq⟩ := tick_effect level s
    rw [applyInput, heq]
    constructor <;> rfl
  | regWrite n v =>
    obtain ⟨av, aa, an, af, ak, al, heq⟩ := s.regStore_effect n v
    rw [applyInput, heq]
    constructor <;> rfl
  | regRead n =>
    obtain ⟨reads, draws, heq⟩ := s.deliver_effect (s.regValue n)
    rw [applyInput, heq]
    constructor <;> rfl
  | memWrite sp i v =>
    obtain heq | ⟨-, -, heq⟩ | ⟨-, -, heq⟩ := s.cellStore_effect sp i v <;> rw [applyInput, heq] <;>
      constructor <;> rfl
  | memRead sp i =>
    obtain ⟨reads, draws, heq⟩ := s.deliver_effect (s.cellValue sp i)
    rw [applyInput, heq]
    constructor <;> rfl
  | rst => exact absurd rfl he

/-- Settles O24, by the ways a step can come about and the effect of a command. -/
theorem onlyCommandsWriteStatusBits : Obligations.OnlyCommandsWriteStatusBits := by
  refine ⟨fun s t hstep hrst hcommand => ?_, fun i s t h => (exec_inv h).status_exclusive⟩
  cases step_inv hstep with
  | wait _ => exact ⟨rfl, rfl⟩
  | event e rest hin _ =>
    have same := applyInput_sameOutputs (s.popped rest) (e := e) (fun he => hrst (by simp [hin, he]))
    exact ⟨same.statusOk, same.statusCmderr⟩
  | command v rest hin => exact absurd (by simp [hin]) (hcommand v)
  | illegal v rest hin => exact absurd (by simp [hin]) (hcommand v)

-- Which bytes are SEND commands

theorem decodeCtrl_class {n : Nat} (h : decodeCtrl n = .ok i) : (encodeFields i).1 = 0 := by
  unfold decodeCtrl at h
  split at h <;> cases h <;> rfl

theorem decodeAvailable_class {n : Nat} (h : decodeAvailable n = .ok i) : (encodeFields i).1 = 1 := by
  unfold decodeAvailable at h
  split at h <;> cases h <;> rfl

theorem decodeSend_sel_le {n : Nat} (h : decodeSend n = .ok i) : n ≤ 16 := by
  unfold decodeSend at h
  split at h <;> first | omega | cases h

theorem byte_eq_class_sel (b : Byte) : b.toNat = 32 * commandClass b + commandSel b := by
  simp only [commandClass, commandSel, BitVec.extractLsb'_toNat, Nat.shiftRight_eq_div_pow]
  omega

/-- The byte of a command of class 2 lies in 0x40 to 0x50 (R173). -/
theorem decode_send_byte {b : Byte} {more : List Byte} (h : decode [b] = .ok (i, more))
    (hclass : (encodeFields i).1 = 2) : 0x40 ≤ b.toNat ∧ b.toNat ≤ 0x50 := by
  have hbyte : decodeByte b = .ok i := by
    simp only [decode] at h
    split at h
    · next hok => cases h; exact hok
    · cases h
  unfold decodeByte at hbyte
  split at hbyte
  · exact absurd ((decodeCtrl_class hbyte).symm.trans hclass) (by decide)
  · exact absurd ((decodeAvailable_class hbyte).symm.trans hclass) (by decide)
  · next hsend =>
    have hsel := decodeSend_sel_le hbyte
    have hsplit := byte_eq_class_sel b
    omega
  · cases hbyte

-- The transmit output

theorem State.Effect.txout_grows (eff : s.Effect i t) :
    ∃ more, t.txout = s.txout ++ more ∧ (more ≠ [] → t.rxEnable = false) := by
  cases eff
  case play plan khz => exact ⟨segmentsFrom khz .mark plan, rfl, fun _ => rfl⟩
  all_goals exact ⟨[], (List.append_nil _).symm, fun h => absurd rfl h⟩

theorem State.available_txout (s : State) (p : Protocol) : (s.available p).txout = s.txout := by
  obtain ⟨ok, err, -, heq⟩ := s.available_effect p
  rw [heq]

/-- Only the commands of class 2 play anything (R173, R440). -/
theorem exec_txout_of_not_send (hclass : (encodeFields i).1 ≠ 2) (h : exec i s = .next t) :
    t.txout = s.txout := by
  cases i
  case nop | rxEnable | rxDisable | rxResume | rxIsIdle | availableHash => cases h; rfl
  case rxDecode | rxDecodeCopy =>
    simp only [exec, execRxDecode, execRxDecodeCopy] at h
    split at h <;> cases h <;> rfl
  case availableRc5 | availableRc6 | availableNec | availableSony | availablePanasonic | availableJvc
      | availableSamsung | availableWhynter | availableAiwa | availableLg | availableSanyo
      | availableMitsubishi | availableDenon =>
    cases h
    exact s.available_txout _
  all_goals exact absurd rfl hclass

/-- Settles O23: of the ways a step can come about only a command reaches `txout`, and of the commands only those of
class 2. -/
theorem txoutOnlyGrows : Obligations.TxoutOnlyGrows := by
  intro s t hstep hrst
  cases step_inv hstep with
  | wait _ => exact ⟨[], (List.append_nil _).symm, fun h => absurd rfl h⟩
  | event e rest hin _ =>
    have same := applyInput_sameOutputs (s.popped rest) (e := e) (fun he => hrst (by simp [hin, he]))
    exact ⟨[], same.txout.trans (List.append_nil _).symm, fun h => absurd rfl h⟩
  | command v rest hin i hdecode _ hexec eff =>
    obtain ⟨more, hmore, hoff⟩ := eff.txout_grows
    refine ⟨more, hmore, fun hne => ⟨hoff hne, v, by simp [hin], ?_⟩⟩
    have hclass : (encodeFields i).1 = 2 := by
      by_contra hnot
      exact hne (List.append_right_eq_self.mp (hmore.symm.trans (exec_txout_of_not_send hnot hexec)))
    simpa using decode_send_byte hdecode hclass
  | illegal v rest _ _ _ => exact ⟨[], (List.append_nil _).symm, fun h => absurd rfl h⟩

end Sys2Proof.Machine
end

section
/-! PROOFS. The registers of the host port (R67, R80, R123, R124) and the values after reset (R100). -/

namespace Sys2Proof.Machine

-- Operand registers

theorem toWord_ofNat (w v : Nat) : toWord (BitVec.ofNat w v) = BitVec.ofNat 32 (v % 2 ^ w) := by
  apply BitVec.eq_of_toNat_eq
  simp [toWord]

/-- The operand registers, each with its width (R80). -/
def operandWidths : List (Nat × Nat) := [(0x02, 32), (0x03, 16), (0x04, 8), (0x05, 2), (0x06, 16), (0x07, 16)]

theorem State.regValue_regStore (s : State) (v : Nat) {nw : Nat × Nat} (h : nw ∈ operandWidths) :
    (s.regStore nw.1 v).regValue nw.1 = some (BitVec.ofNat 32 (v % 2 ^ nw.2)) := by
  fin_cases h
  all_goals exact congrArg some (toWord_ofNat _ v)

/-- A register write reaches no operand register but its own. -/
theorem State.regStore_other (s : State) (n v : Nat) :
    (n ≠ 0x02 → (s.regStore n v).argValue = s.argValue) ∧ (n ≠ 0x03 → (s.regStore n v).argAddr = s.argAddr)
      ∧ (n ≠ 0x04 → (s.regStore n v).argNbits = s.argNbits)
      ∧ (n ≠ 0x05 → (s.regStore n v).argFlags = s.argFlags)
      ∧ (n ≠ 0x06 → (s.regStore n v).argKhz = s.argKhz) ∧ (n ≠ 0x07 → (s.regStore n v).argLen = s.argLen) := by
  unfold State.regStore
  split <;> simp

theorem State.regStore_inputs (s : State) (n v : Nat) : (s.regStore n v).inputs = s.inputs := by
  obtain ⟨av, aa, an, af, ak, al, heq⟩ := s.regStore_effect n v
  rw [heq]

theorem step_regWrite {s : State} {n v : Nat} {rest : List Input} (hn : n ≠ 0)
    (h : s.inputs = .regWrite n v :: rest) : step s = .next ((s.popped rest).regStore n v) :=
  step_event s _ rest h (by simp [fetchCommand, hn])

/-- A register read of a specified value appends it to what the HOST has read, and does nothing else (R127). -/
theorem step_regRead {s : State} {n : Nat} {rest : List Input} {x : Word} (h : s.inputs = .regRead n :: rest)
    (hx : s.regValue n = some x) :
    step s = .next { s with inputs := rest, hostReads := s.hostReads ++ [x] } := by
  have hpopped : (s.popped rest).regValue n = some x := hx
  rw [step_event s _ rest h rfl, applyInput, hpopped]
  rfl

theorem run_two {s t u : State} (hfirst : step s = .next t) (hsecond : step t = .next u) :
    Host.Core.run Sys2Proof.core 2 s = .next u := by
  simp [Host.Core.run, Sys2Proof.core, hfirst, hsecond]

/-- Settles O26: the write step, then the read step of the value just stored. -/
theorem operandRegisterWriteRead : Obligations.OperandRegisterWriteRead := by
  intro s v rest nw hnw hin
  have hn : nw.1 ≠ 0 := by fin_cases hnw <;> decide
  have hwrite := step_regWrite hn hin
  have hread := step_regRead (rest := rest) (State.regStore_inputs _ nw.1 v)
    (State.regValue_regStore (s.popped (.regRead nw.1 :: rest)) v hnw)
  refine ⟨_, run_two hwrite hread, ?_, ?_, State.regStore_other _ nw.1 v⟩
  all_goals
    obtain ⟨av, aa, an, af, ak, al, heq⟩ := (s.popped (.regRead nw.1 :: rest)).regStore_effect nw.1 v
    rw [heq]

-- Result registers and unlisted numbers

theorem toWord_overflowByte (o : Bool) : toWord (overflowByte o) = if o then 1 else 0 := by
  cases o <;> decide

/-- CMD and the numbers that are not listed read 0 (R68, R123). -/
theorem State.regValue_unlisted (s : State) {n : Nat}
    (h : n = 0 ∨ (0x09 ≤ n ∧ n ≤ 0x0F) ∨ n = 0x16 ∨ n = 0x17 ∨ 0x1E ≤ n) : s.regValue n = some 0 := by
  unfold State.regValue
  split
  case h_21 => rfl
  all_goals omega

theorem State.regStore_ignored (s : State) {n : Nat} (h : n = 0x01 ∨ 0x08 ≤ n) (v : Nat) :
    s.regStore n v = s := by
  unfold State.regStore
  split
  case h_7 => rfl
  all_goals omega

/-- Settles O27, register by register of R80. -/
theorem resultRegistersRead : Obligations.ResultRegistersRead := by
  intro s n v x rest
  refine ⟨fun hin hx => step_regRead hin ?_, fun hn hin => ?_⟩
  · rcases hx with hlisted | ⟨rfl, hunlisted⟩
    · simp only [List.mem_cons, Prod.mk.injEq, List.not_mem_nil, or_false, ← toWord_overflowByte] at hlisted
      rcases hlisted with ⟨rfl, rfl⟩ | ⟨rfl, rfl⟩ | ⟨rfl, rfl⟩ | ⟨rfl, rfl⟩ | ⟨rfl, rfl⟩ | ⟨rfl, rfl⟩
        | ⟨rfl, rfl⟩ | ⟨rfl, rfl⟩ | ⟨rfl, rfl⟩ | ⟨rfl, rfl⟩ | ⟨rfl, rfl⟩ | ⟨rfl, rfl⟩ | ⟨rfl, rfl⟩
      all_goals simp [State.regValue, toWord]
    · exact s.regValue_unlisted hunlisted
  · rw [step_regWrite (by omega) hin, State.regStore_ignored _ hn]

-- STATUS

theorem RcvState.code_toNat (r : RcvState) :
    r.code.toNat = (match r with | .idle => 0 | .active => 1 | .ready => 2) := by
  cases r <;> rfl

/-- The lowest bit of a word that ends in one flag is the flag, and the bits above it are those of the word before. -/
theorem getLsbD_append_ofBool {w : Nat} (x : BitVec w) (b : Bool) (i : Nat) :
    (x ++ BitVec.ofBool b).getLsbD i = match i with | 0 => b | j + 1 => x.getLsbD j := by
  rw [BitVec.getLsbD_append]
  cases i <;> simp

/-- STATUS bit by bit (R67): five flags, and above them the code of `rcvstate` under a zero. -/
theorem State.status_getLsbD (s : State) (i : Nat) :
    s.status.getLsbD i =
      match i with
      | 0 => s.statusOk
      | 1 => s.isReady
      | 2 => s.overflow
      | 3 => s.rxEnable
      | 4 => s.statusCmderr
      | j + 5 => (0#1 ++ s.rcvstate.code).getLsbD j := by
  change (0#1 ++ s.rcvstate.code ++ BitVec.ofBool s.statusCmderr ++ BitVec.ofBool s.rxEnable
    ++ BitVec.ofBool s.overflow ++ BitVec.ofBool s.isReady ++ BitVec.ofBool s.statusOk).getLsbD i = _
  match i with
  | 0 | 1 | 2 | 3 | 4 | j + 5 => simp only [getLsbD_append_ofBool]

/-- From bit 5 up STATUS is the code of `rcvstate`, then zeros. -/
theorem State.status_getLsbD_high (s : State) (i : Nat) :
    s.status.getLsbD (i + 5) = s.rcvstate.code.getLsbD i := by
  refine (s.status_getLsbD (i + 5)).trans ?_
  change (0#1 ++ s.rcvstate.code).getLsbD i = _
  rw [BitVec.getLsbD_append]
  by_cases hi : i < 2
  · simp [hi]
  · simpa [hi] using BitVec.getLsbD_of_ge s.rcvstate.code i (by omega)

theorem State.status_extract_code (s : State) : s.status.extractLsb' 5 2 = s.rcvstate.code := by
  apply BitVec.eq_of_getLsbD_eq
  intro i hi
  rw [BitVec.getLsbD_extractLsb', Nat.add_comm, s.status_getLsbD_high]
  simp [hi]

/-- Settles O25 from the bits of STATUS. -/
theorem statusByteFields : Obligations.StatusByteFields := by
  intro s
  refine ⟨s.status_getLsbD 0, ?_, s.status_getLsbD 2, s.status_getLsbD 3, s.status_getLsbD 4, ?_, ?_⟩
  · exact (s.status_getLsbD 1).trans (beq_eq_decide _ _)
  · rw [s.status_extract_code]
    exact s.rcvstate.code_toNat
  · exact (s.status_getLsbD_high 2).trans (BitVec.getLsbD_of_ge _ _ le_rfl)

-- The values after reset

/-- Settles O32, element by element of R100. -/
theorem resetValuesOfBlock : Obligations.ResetValuesOfBlock :=
  ⟨rfl, rfl, rfl, rfl, rfl, rfl, fun _ => ⟨rfl, rfl, rfl, rfl⟩, rfl, rfl, rfl, rfl, rfl, rfl, rfl, rfl, rfl,
    rfl, rfl, rfl, rfl, rfl⟩

end Sys2Proof.Machine
end

section
/-! PROOFS. The cells of the host port (R121, R123, R124, R141), reads without a side effect (R127), and the step of a
CMD write whose byte decodes (R170). -/

namespace Sys2Proof.Machine

variable {s : State} {sp : Space} {i v : Nat} {rest : List Input}

-- Writes of a cell

theorem step_memWrite (h : s.inputs = .memWrite sp i v :: rest) :
    step s = .next ((s.popped rest).cellStore sp i v) :=
  step_event s _ rest h rfl

theorem State.cellStore_ignored (s : State) (v : Nat) (h : sp = .raw ∨ sp = .snapraw ∨ s.cells sp ≤ i) :
    s.cellStore sp i v = s := by
  obtain heq | ⟨rfl, hi, -⟩ | ⟨rfl, hi, -⟩ := s.cellStore_effect sp i v
  · exact heq
  all_goals
    have hpast := (h.resolve_left (by decide)).resolve_left (by decide)
    exact absurd hi (Nat.not_lt_of_le hpast)

theorem State.cellStore_txbuf (s : State) (v : Nat) (hi : i < s.cfg.txCapacity) :
    s.cellStore .txbuf i v = { s with txbuf := s.txbuf.write i (BitVec.ofNat 32 v) } :=
  if_neg (Nat.not_le_of_lt hi)

theorem State.cellStore_ptxt (s : State) (v : Nat) (hi : i < s.cfg.ptxtCapacity) :
    s.cellStore .ptxt i v = { s with ptxt := s.ptxt.write i (BitVec.ofNat 8 v) } :=
  if_neg (Nat.not_le_of_lt hi)

/-- The cell written reads the value modulo its width (R124). -/
theorem cellOr_write_self_toNat {w : Nat} (m : Memory w) (epoch : Nat) (sp : Space) (i v : Nat) :
    (cellOr (m.write i (BitVec.ofNat w v)) epoch sp i).toNat = v % 2 ^ w := by
  rw [cellOr_write, if_pos rfl, BitVec.toNat_ofNat]

theorem cellOr_write_ne {w j : Nat} (m : Memory w) (epoch : Nat) (sp : Space) (x : BitVec w) (h : j ≠ i) :
    cellOr (m.write i x) epoch sp j = cellOr m epoch sp j := by
  rw [cellOr_write, if_neg h]

/-- Settles O28: the write of one cell of a memory, once for TXBUF and once for PTXT; any other write is ignored. -/
theorem cellWriteStoresOneCell : Obligations.CellWriteStoresOneCell := by
  intro s sp i v rest hin
  rw [step_memWrite hin]
  refine ⟨?_, ?_, fun hignored => ?_⟩
  · rintro rfl hi
    rw [State.cellStore_txbuf (s.popped rest) v hi]
    exact ⟨_, rfl, rfl, cellOr_write_self_toNat s.txbuf _ _ i v, fun _ hj => cellOr_write_ne s.txbuf _ _ _ hj⟩
  · rintro rfl hi
    rw [State.cellStore_ptxt (s.popped rest) v hi]
    exact ⟨_, rfl, rfl, cellOr_write_self_toNat s.ptxt _ _ i v, fun _ hj => cellOr_write_ne s.ptxt _ _ _ hj⟩
  · rw [State.cellStore_ignored (s.popped rest) v hignored]

-- A command

/-- Settles O3. -/
theorem stepRunsDecodedCommand : Obligations.StepRunsDecodedCommand := by
  intro s v rest i hin _ hdecode
  rw [step_command s v rest hin, stepCommand_ok _ _ i [] hdecode]

-- Reads of a cell

theorem State.isReady_of_ready (h : s.rcvstate = .ready) : s.isReady = true := by
  simp [State.isReady, h]

theorem State.cellValue_past_end (h : s.cells sp ≤ i) : s.cellValue sp i = some 0 := if_pos h

/-- In READY a RAW cell below `rawlen` has a specified value (R141). -/
theorem State.cellValue_raw (hready : s.rcvstate = .ready) (hlen : i < s.rawlen.toNat)
    (hi : i < s.cfg.rawCapacity) : s.cellValue .raw i = some (toWord (s.rawCell i)) :=
  (if_neg (Nat.not_le_of_lt hi)).trans (if_pos ⟨State.isReady_of_ready hready, hlen⟩)

/-- A SNAPRAW cell below `snap.rawlen` has a specified value in every state (R143). -/
theorem State.cellValue_snapraw (hlen : i < s.snap.rawlen.toNat) (hi : i < s.cfg.rawCapacity) :
    s.cellValue .snapraw i = some (toWord (s.snapCell i)) :=
  (if_neg (Nat.not_le_of_lt hi)).trans (if_pos hlen)

theorem State.cellValue_txbuf (hi : i < s.cfg.txCapacity) : s.cellValue .txbuf i = some (s.txCell i) :=
  if_neg (Nat.not_le_of_lt hi)

theorem State.cellValue_ptxt (hi : i < s.cfg.ptxtCapacity) :
    s.cellValue .ptxt i = some (toWord (s.ptCell i)) :=
  if_neg (Nat.not_le_of_lt hi)

/-- RAWLEN has a specified value in READY (R141). -/
theorem State.regValue_rawlen (hready : s.rcvstate = .ready) : s.regValue 0x08 = some (toWord s.rawlen) :=
  if_pos (State.isReady_of_ready hready)

/-- A cell read of a specified value appends it to what the HOST has read, and does nothing else (R127). -/
theorem step_memRead {x : Word} (h : s.inputs = .memRead sp i :: rest) (hx : s.cellValue sp i = some x) :
    step s = .next { s with inputs := rest, hostReads := s.hostReads ++ [x] } := by
  have hpopped : (s.popped rest).cellValue sp i = some x := hx
  rw [step_event s _ rest h rfl, applyInput, hpopped]
  rfl

/-- Settles O29: each read named has a specified value, which the step delivers. -/
theorem cellReadsExact : Obligations.CellReadsExact := by
  intro s sp i rest
  refine ⟨?raw, ?rawlen, ?snapraw, ?txbuf, ?ptxt, ?pastEnd⟩
  case raw => exact fun hin hready hlen hi => step_memRead hin (State.cellValue_raw hready hlen hi)
  case rawlen => exact fun hin hready => step_regRead hin (State.regValue_rawlen hready)
  case snapraw => exact fun hin hlen hi => step_memRead hin (State.cellValue_snapraw hlen hi)
  case txbuf => exact fun hin hi => step_memRead hin (State.cellValue_txbuf hi)
  case ptxt => exact fun hin hi => step_memRead hin (State.cellValue_ptxt hi)
  case pastEnd => exact fun hin hpast => step_memRead hin (State.cellValue_past_end hpast)

-- No read has a side effect

/-- A read appends one value to what the HOST has read, and draws at most one unspecified value. -/
theorem State.deliver_appends (s : State) (value : Option Word) :
    ∃ (x : Word) (d : Nat), s.draws ≤ d ∧ d ≤ s.draws + 1
      ∧ s.deliver value = { s with hostReads := s.hostReads ++ [x], draws := d } := by
  cases value with
  | none => exact ⟨_, s.draws + 1, Nat.le_succ _, le_rfl, rfl⟩
  | some x => exact ⟨x, s.draws, le_rfl, Nat.le_succ _, rfl⟩

/-- A HOST read is the delivery of some value, the event no longer to come. -/
theorem step_read {e : Input} (h : s.inputs = e :: rest)
    (hread : (∃ n, e = .regRead n) ∨ ∃ sp i, e = .memRead sp i) :
    ∃ value, step s = .next ((s.popped rest).deliver value) := by
  obtain ⟨n, rfl⟩ | ⟨sp, i, rfl⟩ := hread
  · exact ⟨_, step_event s _ rest h rfl⟩
  · exact ⟨_, step_event s _ rest h rfl⟩

/-- Settles O30: a read only delivers, whatever it reads. -/
theorem hostReadsHaveNoSideEffect : Obligations.HostReadsHaveNoSideEffect := by
  intro s e rest hin hread
  obtain ⟨value, hstep⟩ := step_read hin hread
  obtain ⟨x, d, hle, hge, hdeliver⟩ := (s.popped rest).deliver_appends value
  exact ⟨x, d, hle, hge, by rw [hstep, hdeliver]⟩

end Sys2Proof.Machine
end

section
/-! PROOFS. The command byte (R170 to R173, R178): decoding undoes encoding, only encodings decode, and a byte that is
no encoding is an illegal command. -/

namespace Sys2Proof.Machine

variable {c : Byte} {i : Instr} {bytes rest : List Byte}

-- The fields of a decoded byte are those of its command

theorem decodeCtrl_fields {n : Nat} (h : decodeCtrl n = .ok i) : encodeFields i = (0, BitVec.ofNat 5 n) := by
  unfold decodeCtrl at h
  split at h <;> cases h <;> rfl

theorem decodeAvailable_fields {n : Nat} (h : decodeAvailable n = .ok i) :
    encodeFields i = (1, BitVec.ofNat 5 n) := by
  unfold decodeAvailable at h
  split at h <;> cases h <;> rfl

theorem decodeSend_fields {n : Nat} (h : decodeSend n = .ok i) : encodeFields i = (2, BitVec.ofNat 5 n) := by
  unfold decodeSend at h
  split at h <;> cases h <;> rfl

theorem decodeByte_fields (h : decodeByte c = .ok i) :
    encodeFields i = (BitVec.ofNat 3 (commandClass c), BitVec.ofNat 5 (commandSel c)) := by
  unfold decodeByte at h
  split at h
  · next hclass => rw [hclass, decodeCtrl_fields h]; rfl
  · next hclass => rw [hclass, decodeAvailable_fields h]; rfl
  · next hclass => rw [hclass, decodeSend_fields h]; rfl
  · cases h

-- Decoding and encoding undo each other

/-- A byte is its class over its `sel` (R170). -/
theorem class_append_sel (c : Byte) :
    BitVec.ofNat 3 (commandClass c) ++ BitVec.ofNat 5 (commandSel c) = c := by
  simp only [commandClass, commandSel, BitVec.ofNat_toNat, BitVec.setWidth_eq]
  exact (BitVec.extractLsb'_append_extractLsb'_eq_extractLsb' rfl).trans BitVec.extractLsb'_eq_self

theorem encodeByte_of_decodeByte (h : decodeByte c = .ok i) : encodeByte i = c := by
  rw [encodeByte, decodeByte_fields h, class_append_sel]

/-- The tables of R171 to R173 list every command's byte under that command. -/
theorem decodeByte_encodeByte (i : Instr) : decodeByte (encodeByte i) = .ok i := by
  cases i <;> rfl

theorem decodeByte_ok_iff : decodeByte c = .ok i ↔ c = encodeByte i :=
  ⟨fun h => (encodeByte_of_decodeByte h).symm, fun h => h ▸ decodeByte_encodeByte i⟩

theorem decode_cons_ok_iff {more : List Byte} :
    decode (c :: more) = .ok (i, rest) ↔ decodeByte c = .ok i ∧ more = rest := by
  cases h : decodeByte c <;> simp [decode, h]

/-- Settles O1, by whether there is a byte to decode. -/
theorem decodeEncodeAgree : Obligations.DecodeEncodeAgree := by
  intro bytes i rest
  cases bytes with
  | nil => simp [decode, encode]
  | cons c more => simp [decode_cons_ok_iff, decodeByte_ok_iff, encode]

/-- Settles O2, by evaluation of the decoder on each byte. -/
theorem decodeOfTableBytes : Obligations.DecodeOfTableBytes :=
  ⟨rfl, rfl, rfl, rfl, rfl, rfl, rfl, rfl, rfl, rfl⟩

-- The bytes that stand for no command

/-- The bytes without a command: CTRL from 7 on, AVAILABLE from 14 on, SEND 11, 12 and from 17 on, and classes 3 to 7
(R171 to R173, R178). -/
abbrev NoCommand (n : Nat) : Prop :=
  (0x07 ≤ n ∧ n ≤ 0x1F) ∨ (0x2E ≤ n ∧ n ≤ 0x3F) ∨ n = 0x4B ∨ n = 0x4C ∨ 0x51 ≤ n

theorem not_noCommand_encodeByte (i : Instr) : ¬ NoCommand (encodeByte i).toNat := by
  cases i <;> decide

/-- What decodes is an encoding (`decodeByte_ok_iff`), and no encoding is among the bytes without a command. -/
theorem decode_noCommand (h : NoCommand c.toNat) : ∃ e, decode [c] = .error e := by
  cases hdecode : decode [c] with
  | error e => exact ⟨e, rfl⟩
  | ok im =>
    obtain ⟨hbyte, -⟩ := decode_cons_ok_iff.mp hdecode
    exact absurd (decodeByte_ok_iff.mp hbyte ▸ h) (not_noCommand_encodeByte im.1)

/-- Settles O4: a byte without a command does not decode, and such a step is the illegal command. -/
theorem illegalByteChangesOnlyStatus : Obligations.IllegalByteChangesOnlyStatus := by
  intro s v rest hin hv
  obtain ⟨e, hdecode⟩ := decode_noCommand (c := BitVec.ofNat 8 v) (by rwa [BitVec.toNat_ofNat])
  rw [step_command s v rest hin, stepCommand_illegal _ _ e hdecode]
  rfl

end Sys2Proof.Machine
end

section
/-! PROOFS. The biphase sends (R195, R402, R405, R420, R421): what merging does at the ends of a list of half cells, the
half cells of the data bits in one form for RC5 and RC6, and the plan cut into half cells again. -/

namespace Sys2Proof.Machine

variable {hs ms start : List (Level × Nat)} {l l' one : Level} {t u w n : Nat} {bit : Bool}

/-- The level a list of half cells starts with. -/
def firstLevel (hs : List (Level × Nat)) : Option Level := hs.head?.map Prod.fst

@[simp] theorem firstLevel_nil : firstLevel [] = none := rfl

@[simp] theorem firstLevel_cons (h : Level × Nat) (hs : List (Level × Nat)) :
    firstLevel (h :: hs) = some h.1 := rfl

theorem firstLevel_append (h : firstLevel hs = some l) (ms : List (Level × Nat)) :
    firstLevel (hs ++ ms) = some l := by
  cases hs with
  | nil => cases h
  | cons g hs => exact h

-- Merging (R405)

/-- What merging makes of one more half cell in front: an element of its own, or a longer first element. -/
theorem mergeHalves_cons (l : Level) (u : Nat) (hs : List (Level × Nat)) :
    (firstLevel (mergeHalves hs) ≠ some l ∧ mergeHalves ((l, u) :: hs) = (l, u) :: mergeHalves hs)
      ∨ ∃ u' rest, mergeHalves hs = (l, u') :: rest ∧ mergeHalves ((l, u) :: hs) = (l, u + u') :: rest := by
  simp only [mergeHalves]
  split
  · next l' u' rest heq =>
    split
    · next hl => exact .inr ⟨u', rest, by rw [heq, hl], rfl⟩
    · next hl => exact .inl ⟨by simpa [heq] using Ne.symm hl, by rw [heq]⟩
  · next heq => exact .inl ⟨by simp [heq], by rw [heq]⟩

@[simp] theorem firstLevel_mergeHalves (hs : List (Level × Nat)) :
    firstLevel (mergeHalves hs) = firstLevel hs := by
  cases hs with
  | nil => rfl
  | cons h hs =>
    obtain ⟨-, heq⟩ | ⟨u', rest, -, heq⟩ := mergeHalves_cons h.1 h.2 hs <;> rw [heq] <;> rfl

/-- A half cell in front of another level stays an element of its own. -/
theorem mergeHalves_cons_of_ne (h : firstLevel hs ≠ some l) :
    mergeHalves ((l, u) :: hs) = (l, u) :: mergeHalves hs := by
  obtain ⟨-, heq⟩ | ⟨u', rest, hfirst, -⟩ := mergeHalves_cons l u hs
  · exact heq
  · exact absurd (by rw [← firstLevel_mergeHalves, hfirst, firstLevel_cons]) h

/-- What holds of every half cell and of sums holds of every element. -/
theorem mergeHalves_forall {P : Nat → Prop} (hadd : ∀ a b, P a → P b → P (a + b))
    (h : ∀ x ∈ hs, P x.2) : ∀ x ∈ mergeHalves hs, P x.2 := by
  induction hs with
  | nil => exact h
  | cons g hs ih =>
    have ⟨hg, htail⟩ := List.forall_mem_cons.mp h
    obtain ⟨-, heq⟩ | ⟨u', rest, hrest, heq⟩ := mergeHalves_cons g.1 g.2 hs
    · rw [heq]
      exact List.forall_mem_cons.mpr ⟨hg, ih htail⟩
    · have ⟨hu', hrest⟩ := List.forall_mem_cons.mp (hrest ▸ ih htail)
      rw [heq]
      exact List.forall_mem_cons.mpr ⟨hadd _ _ hg hu', hrest⟩

/-- The last element has the level of the last half cell, whether the first half cell joins the elements after it or
not, and a half cell of another level after it stays an element
of its own. -/
theorem mergeHalves_concat (hs : List (Level × Nat)) (l : Level) (u : Nat) :
    ∃ ms u', mergeHalves (hs ++ [(l, u)]) = ms ++ [(l, u')]
      ∧ ∀ l' w, l ≠ l' → mergeHalves (hs ++ [(l, u), (l', w)]) = ms ++ [(l, u'), (l', w)] := by
  induction hs with
  | nil => exact ⟨[], u, rfl, fun l' w hne => by simp [mergeHalves, hne]⟩
  | cons g hs ih =>
    obtain ⟨ms, u', heq, heq'⟩ := ih
    cases ms with
    | nil =>
      by_cases hg : g.1 = l
      · exact ⟨[], g.2 + u', by simp +contextual [mergeHalves, heq, heq', hg]⟩
      · exact ⟨[g], u', by simp +contextual [mergeHalves, heq, heq', hg]⟩
    | cons m ms =>
      by_cases hg : g.1 = m.1
      · exact ⟨(g.1, g.2 + m.2) :: ms, u', by simp +contextual [mergeHalves, heq, heq', hg]⟩
      · exact ⟨g :: m :: ms, u', by simp +contextual [mergeHalves, heq, heq', hg]⟩

theorem dropTrailingSpace_append (hne : hs ≠ []) :
    dropTrailingSpace (ms ++ hs) = ms ++ dropTrailingSpace hs := by
  induction ms with
  | nil => rfl
  | cons m ms ih =>
    rw [List.cons_append, dropTrailingSpace, ih, List.cons_append]
    simp [hne]

/-- Half cells that start with a mark lose at most a space at their end. -/
theorem merge_of_first_mark (h : firstLevel hs = some .mark) :
    merge hs = (dropTrailingSpace (mergeHalves hs)).map Prod.snd := by
  rw [← firstLevel_mergeHalves] at h
  unfold merge
  cases hms : mergeHalves hs with
  | nil => rfl
  | cons m ms =>
    obtain ⟨k, w⟩ := m
    obtain rfl : k = .mark := by simpa [hms] using h
    rfl

/-- Half cells from mark to mark lose nothing. -/
theorem merge_concat_mark (h : firstLevel (hs ++ [(Level.mark, u)]) = some .mark) :
    merge (hs ++ [(Level.mark, u)]) = (mergeHalves (hs ++ [(Level.mark, u)])).map Prod.snd := by
  obtain ⟨ms, u', heq, -⟩ := mergeHalves_concat hs .mark u
  rw [merge_of_first_mark h, heq, dropTrailingSpace_append (List.cons_ne_nil _ _)]
  rfl

/-- A space after the last mark is not played. -/
theorem merge_concat_space (h : firstLevel (hs ++ [(Level.mark, u)]) = some .mark) (w : Nat) :
    merge (hs ++ [(Level.mark, u), (Level.space, w)]) = merge (hs ++ [(Level.mark, u)]) := by
  obtain ⟨ms, u', heq, heq'⟩ := mergeHalves_concat hs .mark u
  have h' : firstLevel (hs ++ [(Level.mark, u), (Level.space, w)]) = some .mark := by
    rw [List.append_cons]
    exact firstLevel_append h _
  rw [merge_concat_mark h, merge_of_first_mark h', heq, heq' .space w (by decide),
    dropTrailingSpace_append (List.cons_ne_nil _ _)]
  rfl

/-- A header pair in front of a mark is played as it is. -/
theorem merge_header (h : firstLevel hs = some .mark) (mark space : Nat) :
    merge ((Level.mark, mark) :: (Level.space, space) :: hs) = mark :: space :: merge hs := by
  have hne : mergeHalves hs ≠ [] := fun hnil => by simp [← firstLevel_mergeHalves hs, hnil] at h
  rw [merge_of_first_mark rfl, merge_of_first_mark h, mergeHalves_cons_of_ne (by simp),
    mergeHalves_cons_of_ne (by simp [h])]
  exact congrArg (List.map Prod.snd) (dropTrailingSpace_append (ms := [_, _]) hne)

-- Plans of whole half cells

/-- The level after `l` where levels alternate. -/
def otherLevel : Level → Level
  | .space => .mark
  | .mark => .space

theorem eq_otherLevel_of_ne (h : l ≠ l') : l' = otherLevel l := by
  revert h
  cases l <;> cases l' <;> decide

theorem planHalves_cons (t : Nat) (l : Level) (us : Nat) (plan : List Nat) :
    planHalves t l (us :: plan) = List.replicate (us / t) l ++ planHalves t (otherLevel l) plan := by
  cases l <;> rfl

/-- `ms` is a list of elements whose levels alternate from `l` on. -/
def AlternatingFrom (l : Level) (ms : List (Level × Nat)) : Prop :=
  Alternating ms ∧ ∀ m ∈ ms.head?, m.1 = l

theorem AlternatingFrom.cons {m : Level × Nat} (h : AlternatingFrom l (m :: ms)) :
    m.1 = l ∧ AlternatingFrom (otherLevel l) ms := by
  obtain ⟨halt, hfirst⟩ := h
  obtain rfl : m.1 = l := hfirst m rfl
  cases ms with
  | nil => exact ⟨rfl, trivial, by simp⟩
  | cons m' ms => exact ⟨rfl, halt.2, by simpa using eq_otherLevel_of_ne halt.1⟩

theorem alternatingFrom_mergeHalves (h : firstLevel hs = some l) : AlternatingFrom l (mergeHalves hs) := by
  refine ⟨mergeHalves_alternating hs, fun m hm => ?_⟩
  simpa [firstLevel, Option.mem_def.mp hm] using (firstLevel_mergeHalves hs).trans h

/-- Elements that end with a mark are odd in number exactly where they start with one. -/
theorem AlternatingFrom.length_of_last_mark (h : AlternatingFrom l (ms ++ [(Level.mark, u)])) :
    (ms ++ [(Level.mark, u)]).length % 2 = if l = .mark then 1 else 0 := by
  induction ms generalizing l with
  | nil =>
    obtain ⟨rfl, -⟩ := h.cons
    rfl
  | cons m ms ih =>
    have hlength := ih h.cons.2
    cases l <;> simp [otherLevel] at hlength ⊢ <;> omega

/-- Elements cut into half cells as a plan are their own half cells. -/
theorem AlternatingFrom.planHalves_eq (h : AlternatingFrom l ms) :
    planHalves t l (ms.map Prod.snd) = levelsOf t ms := by
  induction ms generalizing l with
  | nil => cases l <;> rfl
  | cons m ms ih =>
    obtain ⟨rfl, htail⟩ := h.cons
    rw [List.map_cons, planHalves_cons, ih htail]
    rfl

/-- A duration of one or more whole half cells of length `t`. -/
def Whole (t us : Nat) : Prop := us ≠ 0 ∧ t ∣ us

theorem Whole.add {a b : Nat} (ha : Whole t a) (hb : Whole t b) : Whole t (a + b) :=
  ⟨by have := ha.1; omega, Nat.dvd_add ha.2 hb.2⟩

/-- A plan of whole half cells that begins and ends with a mark and, cut into half cells and with the half cells `rest`
that are not played, is `levels`. -/
structure IsPlanOf (t : Nat) (levels rest : List Level) (plan : List Nat) : Prop where
  odd : plan.length % 2 = 1
  whole : ∀ us ∈ plan, Whole t us
  halves : planHalves t .mark plan ++ rest = levels

/-- Half cells from mark to mark are played as they are. -/
theorem merge_isPlanOf (hfirst : firstLevel (hs ++ [(Level.mark, u)]) = some .mark)
    (hwhole : ∀ h ∈ hs ++ [(Level.mark, u)], Whole t h.2) :
    IsPlanOf t (levelsOf t (hs ++ [(Level.mark, u)])) [] (merge (hs ++ [(Level.mark, u)])) := by
  have halt := alternatingFrom_mergeHalves hfirst
  rw [merge_concat_mark hfirst]
  refine ⟨?odd, ?whole, ?halves⟩
  case odd =>
    obtain ⟨ms, u', heq, -⟩ := mergeHalves_concat hs .mark u
    rw [heq] at halt ⊢
    simpa using halt.length_of_last_mark
  case whole =>
    exact List.forall_mem_map.mpr (mergeHalves_forall (fun _ _ => Whole.add) hwhole)
  case halves =>
    rw [List.append_nil, halt.planHalves_eq, (levelsOf_mergeHalves t _ fun h hh => (hwhole h hh).2).1]

-- The half cells of the data bits

/-- The length of each half of a bit: one half cell, or two where it is doubled (R421). -/
def halfWidth (t : Nat) (dbl : Bool) : Nat := if dbl then 2 * t else t

/-- The half cells of the data bits `n-1 .. 0` of `v`, in one form for RC5 and RC6 (R195). -/
def biphaseHalves (t : Nat) (one : Level) (doubled : Nat → Bool) (v n : Nat) : List (Level × Nat) :=
  (List.range n).reverse.flatMap fun i => bitHalves one (v.testBit i) (halfWidth t (doubled i))

theorem biphaseHalves_succ (t : Nat) (one : Level) (doubled : Nat → Bool) (v n : Nat) :
    biphaseHalves t one doubled v (n + 1)
      = bitHalves one (v.testBit n) (halfWidth t (doubled n)) ++ biphaseHalves t one doubled v n := by
  simp [biphaseHalves, List.range_succ]

theorem rc5Halves_eq (t v n : Nat) : rc5Halves t v n = biphaseHalves t .space (fun _ => false) v n := by
  induction n with
  | zero => rfl
  | succ n ih => rw [biphaseHalves_succ, ← ih]; rfl

theorem rc6Halves_eq (t v n i : Nat) :
    rc6Halves t v n i = biphaseHalves t .mark (fun j => n - j == 4) v i := by
  induction i with
  | zero => rfl
  | succ i ih => rw [biphaseHalves_succ, ← ih]; simp [rc6Halves, halfWidth]

/-- The last bit sent is bit 0. -/
theorem biphaseHalves_last (t : Nat) (one : Level) (doubled : Nat → Bool) (v n : Nat) :
    ∃ before, biphaseHalves t one doubled v (n + 1)
      = before ++ bitHalves one (v.testBit 0) (halfWidth t (doubled 0)) := by
  induction n with
  | zero => exact ⟨[], by simp [biphaseHalves]⟩
  | succ n ih =>
    obtain ⟨before, heq⟩ := ih
    exact ⟨_ ++ before, by rw [biphaseHalves_succ, heq, List.append_assoc]⟩

theorem whole_halfWidth (ht : 1 ≤ t) (dbl : Bool) : Whole t (halfWidth t dbl) := by
  cases dbl
  · exact ⟨Nat.ne_of_gt ht, dvd_refl t⟩
  · exact ⟨Nat.ne_of_gt (Nat.mul_pos two_pos ht), dvd_mul_left t 2⟩

theorem halfWidth_div (ht : 1 ≤ t) (dbl : Bool) : halfWidth t dbl / t = if dbl then 2 else 1 := by
  cases dbl <;> simp [halfWidth, Nat.div_self ht, Nat.mul_div_cancel 2 ht]

theorem snd_of_mem_bitHalves {h : Level × Nat} (hh : h ∈ bitHalves one bit w) : h.2 = w := by
  unfold bitHalves at hh
  split at hh <;> rcases List.mem_pair.mp hh with rfl | rfl <;> rfl

theorem whole_biphaseHalves (ht : 1 ≤ t) (one : Level) (doubled : Nat → Bool) (v n : Nat) :
    ∀ h ∈ biphaseHalves t one doubled v n, Whole t h.2 := by
  intro h hh
  obtain ⟨i, -, hi⟩ := List.mem_flatMap.mp hh
  exact snd_of_mem_bitHalves hi ▸ whole_halfWidth ht _

theorem levelsOf_append (t : Nat) (hs ms : List (Level × Nat)) :
    levelsOf t (hs ++ ms) = levelsOf t hs ++ levelsOf t ms := List.flatMap_append

theorem levelsOf_bitHalves (ht : 1 ≤ t) (one : Level) (bit dbl : Bool) :
    levelsOf t (bitHalves one bit (halfWidth t dbl)) = bitLevels one bit dbl := by
  unfold bitHalves bitLevels
  split <;> simp [levelsOf, halfWidth_div ht]

theorem levelsOf_biphaseHalves (ht : 1 ≤ t) (one : Level) (doubled : Nat → Bool) (v n : Nat) :
    levelsOf t (biphaseHalves t one doubled v n)
      = (List.range n).reverse.flatMap fun i => bitLevels one (v.testBit i) (doubled i) := by
  rw [biphaseHalves, levelsOf, List.flatMap_assoc]
  exact congrArg (List.flatMap · _) (funext fun i => levelsOf_bitHalves ht one _ _)

/-- The half cells of the last bit that are not played: its second half, `k` half cells, if that is SPACE (R405). -/
def unplayed (one : Level) (bit : Bool) (k : Nat) : List Level :=
  if bit == (one == .mark) then List.replicate k .space else []

/-- Half cells that begin with a mark and end with a bit are played, but for a final SPACE half. -/
theorem merge_append_bitHalves (hfirst : firstLevel hs = some .mark)
    (hwhole : ∀ h ∈ hs ++ bitHalves one bit w, Whole t h.2) :
    IsPlanOf t (levelsOf t (hs ++ bitHalves one bit w)) (unplayed one bit (w / t))
      (merge (hs ++ bitHalves one bit w)) := by
  unfold bitHalves at hwhole ⊢
  unfold unplayed
  split at hwhole
  · next hlast =>
    have hmark := firstLevel_append hfirst [(Level.mark, w)]
    rw [if_pos hlast, if_pos hlast, merge_concat_space hmark]
    rw [List.append_cons] at hwhole
    obtain ⟨hodd, helems, hhalves⟩ := merge_isPlanOf hmark (List.forall_mem_append.mp hwhole).1
    refine ⟨hodd, helems, ?_⟩
    rw [List.append_cons hs _ [(Level.space, w)], levelsOf_append, ← hhalves, List.append_nil]
    simp [levelsOf]
  · next hlast =>
    have hmark := firstLevel_append hfirst [(Level.space, w), (Level.mark, w)]
    rw [if_neg hlast, if_neg hlast]
    rw [List.append_cons] at hmark hwhole ⊢
    exact merge_isPlanOf hmark hwhole

/-- A start that begins with a mark and the data bits are played half cell by half cell, but for a final SPACE
half. -/
theorem merge_biphase (hfirst : firstLevel start = some .mark) (hstart : ∀ h ∈ start, Whole t h.2)
    (ht : 1 ≤ t) (one : Level) (doubled : Nat → Bool) (v : Nat) (hn : 1 ≤ n) :
    IsPlanOf t
      (levelsOf t start ++ (List.range n).reverse.flatMap fun i => bitLevels one (v.testBit i) (doubled i))
      (unplayed one (v.testBit 0) (if doubled 0 then 2 else 1))
      (merge (start ++ biphaseHalves t one doubled v n)) := by
  have hwhole : ∀ h ∈ start ++ biphaseHalves t one doubled v n, Whole t h.2 :=
    List.forall_mem_append.mpr ⟨hstart, whole_biphaseHalves ht one doubled v n⟩
  obtain ⟨n, rfl⟩ := Nat.exists_eq_add_of_le' hn
  obtain ⟨before, heq⟩ := biphaseHalves_last t one doubled v n
  rw [← levelsOf_biphaseHalves ht, ← levelsOf_append, ← halfWidth_div ht]
  rw [heq, ← List.append_assoc] at hwhole ⊢
  exact merge_append_bitHalves (firstLevel_append hfirst before) hwhole

-- The two commands (R402, R420, R421)

theorem State.send_of_legal {s : State} {p : Protocol} (henabled : s.cfg.encEnabled p = true)
    (hmin : 1 ≤ s.argNbits.toNat) (hmax : s.argNbits.toNat ≤ 32) (plan : List Nat) (khz : Nat) :
    s.send p s.nbitsLegal plan khz = (s.sendRaw plan khz).answer true := by
  simp [State.send, henabled, State.nbitsLegal, hmin, hmax]

theorem bitLevels_space (bit : Bool) :
    bitLevels .space bit false = if bit then [Level.space, Level.mark] else [Level.mark, Level.space] := by
  cases bit <;> rfl

theorem bitLevels_mark (bit dbl : Bool) :
    bitLevels .mark bit dbl
      = let k := if dbl then 2 else 1
        if bit then List.replicate k Level.mark ++ List.replicate k Level.space
        else List.replicate k Level.space ++ List.replicate k Level.mark := by
  cases bit <;> rfl

theorem unplayed_space (bit : Bool) : unplayed .space bit 1 = if bit then [] else [Level.space] := by
  cases bit <;> rfl

theorem unplayed_mark (bit : Bool) (k : Nat) :
    unplayed .mark bit k = if bit then List.replicate k Level.space else [] := by
  cases bit <;> rfl

/-- The RC5 plan, half cell by half cell (R420). -/
theorem encRc5_isPlanOf (d : BiphaseDescriptor) (v : Nat) (hn : 1 ≤ n) (ht : 1 ≤ d.t1) :
    IsPlanOf d.t1
      ([Level.mark, Level.space, Level.mark] ++ (List.range n).reverse.flatMap fun i =>
        if v.testBit i then [Level.space, Level.mark] else [Level.mark, Level.space])
      (if v.testBit 0 then [] else [Level.space]) (encRc5 d v n) := by
  have hwhole : Whole d.t1 d.t1 := whole_halfWidth ht false
  have hplan := merge_biphase (start := [(Level.mark, d.t1), (Level.space, d.t1), (Level.mark, d.t1)]) rfl
    (by simp [hwhole]) ht Level.space (fun _ => false) v hn
  rw [← rc5Halves_eq] at hplan
  simpa [encRc5, levelsOf, Nat.div_self ht, bitLevels_space, unplayed_space] using hplan

/-- The RC6 plan after the header pair, half cell by half cell (R421). -/
theorem encRc6_isPlanOf (d : BiphaseDescriptor) (v : Nat) (hn : 1 ≤ n) (ht : 1 ≤ d.t1) :
    IsPlanOf d.t1
      ([Level.mark, Level.space] ++ (List.range n).reverse.flatMap fun i =>
        let k := if n - i = 4 then 2 else 1
        if v.testBit i then List.replicate k Level.mark ++ List.replicate k Level.space
        else List.replicate k Level.space ++ List.replicate k Level.mark)
      (if v.testBit 0 then List.replicate (if n = 4 then 2 else 1) Level.space else [])
      (merge ([(Level.mark, d.t1), (Level.space, d.t1)] ++ rc6Halves d.t1 v n n)) := by
  have hwhole : Whole d.t1 d.t1 := whole_halfWidth ht false
  have hplan := merge_biphase (start := [(Level.mark, d.t1), (Level.space, d.t1)]) rfl
    (by simp [hwhole]) ht Level.mark (fun i => n - i == 4) v hn
  rw [← rc6Halves_eq] at hplan
  simpa [levelsOf, Nat.div_self ht, bitLevels_mark, unplayed_mark] using hplan

/-- Settles O55: the sends by the skeleton they share, the plans by merging. -/
theorem sendPlaysBiphasePlan : Obligations.SendPlaysBiphasePlan := by
  refine ⟨fun s hmin hmax => ⟨fun hrc5 => ?rc5, fun hrc6 => ?rc6⟩, fun d v n hn ht => ⟨?rc5Plan, ?rc6Plan⟩⟩
  case rc5 => exact congrArg _ (State.send_of_legal hrc5 hmin hmax _ _)
  case rc6 => exact congrArg _ (State.send_of_legal hrc6 hmin hmax _ _)
  case rc5Plan =>
    obtain ⟨hodd, hwhole, hhalves⟩ := encRc5_isPlanOf d v hn ht
    exact ⟨hodd, hwhole, hhalves⟩
  case rc6Plan =>
    obtain ⟨hodd, hwhole, hhalves⟩ := encRc6_isPlanOf d v hn ht
    exact ⟨_, merge_header rfl d.hdrMark d.hdrSpace, hodd, hwhole, hhalves⟩

end Sys2Proof.Machine
end

section
/-! PROOFS. The tolerance matcher (R241 to R245, R247): its inequalities, why a band is an interval, and the bands of
the default parameters in ticks. -/

namespace Sys2Proof.Machine

variable {c : Config} {d m tol : Nat} {e : Int}

-- The inequalities, and why a band is an interval (R241 to R243)

theorem matchUs_iff : matchUs c e d tol = true ↔
    (d : Int) * (100 - tol) - 100 * c.guardUs ≤ 100 * e
      ∧ 100 * e ≤ (d : Int) * (100 + tol) + 100 * c.guardUs := by
  simp only [matchUs, Bool.and_eq_true, decide_eq_true_eq]

theorem matchUs_between {e' e'' : Int} (hlow : e ≤ e') (hhigh : e' ≤ e'') (h : matchUs c e d tol = true)
    (h'' : matchUs c e'' d tol = true) : matchUs c e' d tol = true := by
  have ⟨hfrom, _⟩ := matchUs_iff.mp h
  have ⟨_, hto⟩ := matchUs_iff.mp h''
  exact matchUs_iff.mpr ⟨by omega, by omega⟩

theorem ticks_mul_le (c : Config) {m m' : Nat} (h : m ≤ m') :
    (m : Int) * c.usecPerTick ≤ (m' : Int) * c.usecPerTick :=
  mod_cast Nat.mul_le_mul_right c.usecPerTick h

theorem matchMark_between {m' m'' : Nat} (hlow : m ≤ m') (hhigh : m' ≤ m'') (h : matchMark c m d = true)
    (h'' : matchMark c m'' d = true) : matchMark c m' d = true :=
  matchUs_between (Int.add_le_add_right (ticks_mul_le c hlow) _)
    (Int.add_le_add_right (ticks_mul_le c hhigh) _) h h''

theorem matchSpace_between {m' m'' : Nat} (hlow : m ≤ m') (hhigh : m' ≤ m'') (h : matchSpace c m d = true)
    (h'' : matchSpace c m'' d = true) : matchSpace c m' d = true :=
  matchUs_between (Int.sub_le_sub_right (ticks_mul_le c hlow) _)
    (Int.sub_le_sub_right (ticks_mul_le c hhigh) _) h h''

-- The bands of the default parameters, solved for the tick count (R245)

theorem matchMark_default_iff :
    matchMark defaultConfig m d = true ↔ (3 * d + 399) / 200 ≤ m ∧ m ≤ (5 * d + 600) / 200 := by
  simp only [matchMark, matchUs_iff, defaultConfig]
  omega

/-- Below 40 µs the band of a space ends before 0 ticks, and its upper end is no `Nat`. -/
theorem matchSpace_default_iff (hd : 40 ≤ d) :
    matchSpace defaultConfig m d = true ↔ (3 * d - 401) / 200 ≤ m ∧ m ≤ (5 * d - 200) / 200 := by
  simp only [matchSpace, matchUs_iff, defaultConfig]
  omega

/-- Settles O33: the table of R245 holds the ends of the default bands, row by row. -/
theorem matcherBandsAndExamples : Obligations.MatcherBandsAndExamples := by
  refine ⟨fun _ _ _ _ => matchUs_iff, fun _ _ _ => ⟨rfl, rfl⟩,
    fun _ _ _ _ _ hlow hhigh => ⟨matchMark_between hlow hhigh, matchSpace_between hlow hhigh⟩,
    fun row hrow m => ?table, by decide⟩
  obtain ⟨hd, hmarkLow, hmarkHigh, hspaceLow, hspaceHigh⟩ :
      40 ≤ row.1
        ∧ row.2.1 = (3 * row.1 + 399) / 200 ∧ row.2.2.1 = (5 * row.1 + 600) / 200
        ∧ row.2.2.2.1 = (3 * row.1 - 401) / 200 ∧ row.2.2.2.2 = (5 * row.1 - 200) / 200 := by
    revert row
    decide
  rw [hmarkLow, hmarkHigh, hspaceLow, hspaceHigh]
  exact ⟨matchMark_default_iff, matchSpace_default_iff hd⟩

end Sys2Proof.Machine
end

section
/-! PROOFS. A frame inside its tolerance bands is read as that frame (R246, R332, R333): the length test counts the
frame's cells, then each reader takes its piece of the plan. -/

namespace Sys2Proof.Machine

variable {c : Config} {d : FrameDescriptor} {f n : Nat} {header : Bool} {es : List Nat}

/-- The part of a frame's plan after the pre pair and the header pair: the cells, and the stop mark of a DISTANCE
frame (R404). -/
def frameBody (d : FrameDescriptor) (f n : Nat) : List Nat :=
  match d.kind with
  | .distance => distanceCells d f n ++ [d.stopMark]
  | .width => widthCells d f n

theorem frameBody_of_distance (hkind : d.kind = .distance) :
    frameBody d f n = distanceCells d f n ++ [d.stopMark] := by
  simp [frameBody, hkind]

theorem frameBody_of_width (hkind : d.kind = .width) : frameBody d f n = widthCells d f n := by
  simp [frameBody, hkind]

theorem encFrame_eq (d : FrameDescriptor) (f n : Nat) (header : Bool) :
    encFrame d f n header
      = pairOf (d.preMark != 0) d.preMark d.preSpace
        ++ (pairOf (header && d.hdrMark != 0) d.hdrMark d.hdrSpace ++ frameBody d f n) :=
  List.append_assoc ..

theorem encFrame_length (d : FrameDescriptor) (f n : Nat) (header : Bool) :
    (encFrame d f n header).length
      = pairLen (d.preMark != 0) + (pairLen (header && d.hdrMark != 0) + (frameBody d f n).length) := by
  simp only [encFrame_eq, List.length_append, pairOf_length]

-- The length test (R332)

theorem cellCount_encFrame (hmin : d.nmin ≤ n) (hmax : n ≤ d.nmax)
    (hwidth : d.kind = .width → 1 ≤ n ∧ d.preMark = 0) :
    cellCount d ((encFrame d f n header).length + 1) header = .ok n := by
  cases hkind : d.kind with
  | distance =>
    simp only [cellCount, hkind, encFrame_length, frameBody_of_distance hkind, List.length_append,
      distanceCells_length, List.length_singleton]
    rw [if_neg (by omega), if_neg (by omega)]
    congr
    omega
  | width =>
    obtain ⟨hn, hpre⟩ := hwidth hkind
    have hnoPre : pairLen (d.preMark != 0) = 0 := by simp [hpre, pairLen]
    simp only [cellCount, hkind, encFrame_length, frameBody_of_width hkind, widthCells_length, hnoPre]
    rw [if_neg (by omega), if_neg (by omega)]
    congr
    omega

-- The readers (R333)

theorem readBody_within (hf : f < 2 ^ n)
    (hdistance : d.kind = .distance →
      ∀ m, matchSpace c m d.zeroSpace = true → matchSpace c m d.oneSpace = false)
    (hwidth : d.kind = .width → ∀ m, matchMark c m d.zeroMark = true → matchMark c m d.oneMark = false)
    (h : Within c .mark (frameBody d f n) es) :
    ∃ rest, readCells c d n es = .ok (f, rest) ∧ readStop c d rest = .ok () := by
  cases hkind : d.kind with
  | distance =>
    rw [frameBody_of_distance hkind] at h
    obtain ⟨stop, hcells, hrest⟩ := readDistance_within (a := 0) (hdistance hkind) h
    obtain ⟨m, rfl, hm⟩ := hrest.last
    refine ⟨[m], ?_, by simp [readStop, hkind, hm]⟩
    simpa [readCells, hkind, Nat.mod_eq_of_lt hf] using hcells
  | width =>
    rw [frameBody_of_width hkind] at h
    have hcells := readWidth_within (a := 0) (hwidth hkind) h
    refine ⟨[], ?_, by simp [readStop, hkind]⟩
    simpa [readCells, hkind, Nat.mod_eq_of_lt hf] using hcells

/-- Settles O35: the length test finds the cells, and the pairs, the cells and the stop mark are read one after the
other. -/
theorem frameWithinToleranceDecodes : Obligations.FrameWithinToleranceDecodes := by
  intro c d f n g header es hmin hmax hf hdistance hwidth h
  have hcount : cellCount d (es.length + 1) header = .ok n := by
    rw [h.length]
    exact cellCount_encFrame hmin hmax fun hkind =>
      have ⟨hn, hpre, _⟩ := hwidth hkind
      ⟨hn, hpre⟩
  rw [encFrame_eq] at h
  obtain ⟨afterPre, hpre, h⟩ := readPair_within h
  obtain ⟨afterHeader, hheader, h⟩ := readPair_within h
  obtain ⟨rest, hcells, hstop⟩ :=
    readBody_within hf hdistance (fun hkind => have ⟨_, _, hdisjoint⟩ := hwidth hkind; hdisjoint) h
  simp [decFrame, hcount, hpre, hheader, hcells, hstop, bind, Except.bind, pure, Except.pure]

end Sys2Proof.Machine
end

section
/-! PROOFS. The control commands that act on the sampler (R270 to R275). -/

namespace Sys2Proof.Machine

/-- Settles O6. -/
theorem nopAnswersOk : Obligations.NopAnswersOk := ⟨rfl, fun _ => rfl⟩

/-- Settles O7. -/
theorem rxEnableRearmsSampler : Obligations.RxEnableRearmsSampler := by
  refine ⟨rfl, fun _ => rfl, fun t h => ?_⟩
  cases h
  rfl

/-- STATUS 0x4B says READY without an overflow (R67). -/
theorem State.ready_of_status {s : State} (h : s.status = 0x4B) : s.rcvstate = .ready ∧ s.overflow = false := by
  have hready := s.status_getLsbD 1
  have hoverflow := s.status_getLsbD 2
  rw [h] at hready hoverflow
  exact ⟨of_decide_eq_true ((beq_eq_decide _ _).symm.trans hready.symm), hoverflow.symm⟩

/-- Settles O8: the bits of STATUS that the command leaves alone are READY, OVERFLOW and RCVSTATE. -/
theorem rxDisableOnlyDisarms : Obligations.RxDisableOnlyDisarms := by
  refine ⟨rfl, fun _ => rfl, fun s t hstatus h => ?_⟩
  obtain ⟨hready, hoverflow⟩ := State.ready_of_status hstatus
  cases h
  simp [State.status, State.isReady, hready, hoverflow, RcvState.code]

/-- Settles O9. -/
theorem rxResumeEmptiesCapture : Obligations.RxResumeEmptiesCapture := ⟨rfl, fun _ => rfl⟩

/-- Settles O10: the answer and bit 1 of STATUS are the same flag. -/
theorem rxIsIdleReportsReady : Obligations.RxIsIdleReportsReady := by
  refine ⟨rfl, fun s => ?_⟩
  have hflag : s.isReady = decide (s.rcvstate = .ready) := beq_eq_decide _ _
  rw [s.status_getLsbD 1, ← hflag]
  exact ⟨rfl, rfl⟩

end Sys2Proof.Machine
end

section
/-! PROOFS. A TICK (R263 to R267), first at a level that stays and then at each kind of change, and what cannot leave
READY or set `rx_enable` (R261, R271). -/

namespace Sys2Proof

theorem Config.wf_idleGap {c : Config} (h : c.wf = true) : c.idleGapTicks < c.sampleMax := by
  simp only [Config.wf, Config.wfIdleGap, Bool.and_eq_true, decide_eq_true_eq] at h
  tauto

end Sys2Proof

namespace Sys2Proof.Machine

variable {s t : State} {level : Level} {rest : List Input} {i : Instr} {v : Nat}

theorem step_tick (h : s.inputs = .tick level :: rest) : step s = .next (tick level (s.popped rest)) :=
  step_event s _ rest h rfl

/-- The counter after the increment of R263: the cut to 16 bits loses nothing. -/
theorem State.count_counter_toNat (hwf : s.cfg.wf = true) :
    s.count.counter.toNat = min (s.counter.toNat + 1) s.cfg.sampleMax := by
  have hmax := (Config.wf_sampleMax hwf).2
  simp only [State.count_counter, satTicks, BitVec.toNat_ofNat]
  exact Nat.mod_eq_of_lt (by omega)

-- A level that stays, and a change of level

/-- The silence that ends a capture at this tick (R266). -/
def State.GapExceeded (s : State) : Prop :=
  s.rcvstate = .active ∧ s.curLevel = .space ∧ s.cfg.idleGapTicks < s.count.counter.toNat

/-- A tick at the level the line has only counts, where no capture ends. -/
theorem tick_same_level (hen : s.rxEnable = true) (hsame : level = s.curLevel) (hgap : ¬ s.GapExceeded) :
    tick level s = s.count := by
  have hcount : level = s.count.curLevel := hsame
  obtain ⟨-, heq⟩ | ⟨hrcv, heq⟩ | ⟨-, heq⟩ := tick_enabled level s hen
  · rw [heq, tickIdle, if_pos hcount]
  · rw [heq, tickActive, if_pos hcount]
    exact if_neg fun h => hgap ⟨hrcv, h⟩
  · rw [heq, tickReady, if_pos hcount]

/-- The silence that exceeds the threshold ends the capture (R266). -/
theorem tick_gapExceeded (hen : s.rxEnable = true) (hgap : s.GapExceeded) :
    tick .space s = { s.count with rcvstate := .ready } := by
  obtain ⟨hrcv, hquiet⟩ := hgap
  have hcount : .space = s.count.curLevel := hquiet.1.symm
  have htick : tick .space s = tickActive .space s.count := by simp [tick, hen, hrcv]
  rw [htick, tickActive, if_pos hcount]
  exact if_pos hquiet

/-- In IDLE a change to MARK stores the pre-roll gap (R57). -/
theorem tick_idle_mark (hen : s.rxEnable = true) (hrcv : s.rcvstate = .idle) (hcur : s.curLevel = .space) :
    tick .mark s = s.count.startCapture.edge .mark := by
  simp [tick, hen, hrcv, tickIdle, hcur]

theorem tick_idle_space (hen : s.rxEnable = true) (hrcv : s.rcvstate = .idle) (hcur : s.curLevel ≠ .space) :
    tick .space s = s.count.edge .space := by
  simp [tick, hen, hrcv, tickIdle, hcur.symm]

/-- In ACTIVE a change stores the count where there is room (R264). -/
theorem tick_active_push (hen : s.rxEnable = true) (hrcv : s.rcvstate = .active) (hne : level ≠ s.curLevel)
    (hroom : s.rawlen.toNat < s.cfg.rawCapacity) : tick level s = s.count.push.edge level := by
  simp [tick, hen, hrcv, tickActive, hne, Nat.not_le_of_lt hroom]

/-- In ACTIVE a change with the buffer full ends the capture (R265). -/
theorem tick_active_full (hen : s.rxEnable = true) (hrcv : s.rcvstate = .active) (hne : level ≠ s.curLevel)
    (hfull : s.cfg.rawCapacity ≤ s.rawlen.toNat) : tick level s = s.count.overflowed.edge level := by
  simp [tick, hen, hrcv, tickActive, hne, hfull]

theorem tick_ready_change (hen : s.rxEnable = true) (hrcv : s.rcvstate = .ready) (hne : level ≠ s.curLevel) :
    tick level s = s.count.edge level := by
  simp [tick, hen, hrcv, tickReady, hne]

/-- The cell of RAW that was written (R264). -/
theorem State.rawCell_write_self {k : Nat} {x : Half} (hraw : t.raw = s.raw.write k x) : t.rawCell k = x := by
  rw [State.rawCell, hraw, cellOr_write, if_pos rfl]

theorem State.rawCell_write_ne {j k : Nat} {x : Half} (hraw : t.raw = s.raw.write k x)
    (hepoch : t.epoch = s.epoch) (hj : j ≠ k) : t.rawCell j = s.rawCell j := by
  rw [State.rawCell, hraw, hepoch, cellOr_write_ne _ _ _ _ hj]
  rfl

theorem State.push_rawlen_toNat (hwf : s.cfg.wf = true) (hroom : s.rawlen.toNat < s.cfg.rawCapacity) :
    s.push.rawlen.toNat = s.rawlen.toNat + 1 := by
  have hcap := (Config.wf_rawCapacity hwf).2
  simp only [State.push_rawlen, BitVec.toNat_add]
  exact Nat.mod_eq_of_lt (by simp; omega)

-- The obligations about one TICK

/-- Settles O11. -/
theorem tickDisabledChangesNothing : Obligations.TickDisabledChangesNothing := by
  intro s level rest hin hoff
  rw [step_tick hin, tick_disabled level (s.popped rest) hoff]

/-- Settles O12: the tick is a write of cell 0. -/
theorem tickStartsCapture : Obligations.TickStartsCapture := by
  intro s rest hin hen hwf hidle hcur
  have htick := tick_idle_mark (s := s.popped rest) hen hidle hcur
  refine ⟨_, (step_tick hin).trans (congrArg _ htick), ?_,
    fun j hj => State.rawCell_write_ne (s := s) rfl rfl hj, rfl⟩
  rw [State.rawCell_write_self (s := s) rfl]
  exact State.count_counter_toNat (s := s) hwf

/-- Settles O13: with room the tick is a write of the cell at `rawlen`, and without room it stores nothing. -/
theorem tickPushesSampleOrOverflows : Obligations.TickPushesSampleOrOverflows := by
  intro s level rest hin hen hwf hactive hne
  refine ⟨fun hroom => ?_, fun hfull => ?_⟩
  · have htick := tick_active_push (s := s.popped rest) hen hactive hne hroom
    refine ⟨_, (step_tick hin).trans (congrArg _ htick), ?_,
      fun j hj => State.rawCell_write_ne (s := s) rfl rfl hj, State.push_rawlen_toNat (s := s) hwf hroom, rfl⟩
    rw [State.rawCell_write_self (s := s) rfl]
    exact State.count_counter_toNat (s := s) hwf
  · rw [step_tick hin, tick_active_full (s := s.popped rest) hen hactive hne hfull.ge]
    rfl

/-- Settles O14: the threshold is below the value the counter saturates at, so the saturated count is above it exactly
where the count is. -/
theorem tickIdleGapEndsCapture : Obligations.TickIdleGapEndsCapture := by
  intro s level rest hin hen hwf hactive hsame
  have habove : s.cfg.idleGapTicks < (s.popped rest).count.counter.toNat
      ↔ s.cfg.idleGapTicks < s.counter.toNat + 1 := by
    rw [State.count_counter_toNat (s := s.popped rest) hwf]
    exact lt_min_iff.trans (and_iff_left (Config.wf_idleGap hwf))
  rw [step_tick hin]
  by_cases hend : level = .space ∧ s.cfg.idleGapTicks < s.counter.toNat + 1
  · obtain ⟨rfl, hlong⟩ := hend
    rw [tick_gapExceeded (s := s.popped rest) hen ⟨hactive, hsame.symm, habove.mpr hlong⟩, if_pos ⟨rfl, hlong⟩]
    rfl
  · have hgap : ¬ (s.popped rest).GapExceeded := fun h => hend ⟨hsame.trans h.2.1, habove.mp h.2.2⟩
    rw [tick_same_level (s := s.popped rest) hen hsame hgap, if_neg hend, ← hactive]
    rfl

/-- Settles O15, by whether the level changes; a change in IDLE that starts no capture is one to SPACE. -/
theorem tickOutsideActiveTracksEdges : Obligations.TickOutsideActiveTracksEdges := by
  intro s level rest hin hen hrcv
  rw [step_tick hin]
  by_cases hsame : level = s.curLevel
  · have hnot : s.rcvstate ≠ .active := by
      obtain h | ⟨h, -⟩ := hrcv <;> simp [h]
    rw [tick_same_level (s := s.popped rest) hen hsame fun h => hnot h.1, if_pos hsame, hsame]
    rfl
  · rw [if_neg hsame]
    obtain hready | ⟨hidle, hquiet⟩ := hrcv
    · rw [tick_ready_change (s := s.popped rest) hen hready hsame]
      rfl
    · cases level with
      | mark => exact absurd ⟨rfl, eq_otherLevel_of_ne hsame⟩ hquiet
      | space =>
        rw [tick_idle_space (s := s.popped rest) hen hidle (Ne.symm hsame)]
        rfl

-- The obligations about every step

/-- In READY a tick leaves the capture as it is (R267). -/
theorem tick_ready_rcvstate (hrcv : s.rcvstate = .ready) : (tick level s).rcvstate = .ready := by
  cases hen : s.rxEnable with
  | false => rw [tick_disabled level s hen, hrcv]
  | true =>
    by_cases hsame : level = s.curLevel
    · rw [tick_same_level hen hsame fun h => absurd (hrcv.symm.trans h.1) (by decide)]
      exact hrcv
    · rw [tick_ready_change hen hrcv hsame]
      exact hrcv

/-- No event leaves READY that is neither a command nor reset. -/
theorem applyInput_ready {e : Input} (he : e ≠ .rst) (hrcv : s.rcvstate = .ready) :
    (applyInput s e).rcvstate = .ready := by
  cases e with
  | tick level => exact tick_ready_rcvstate hrcv
  | regWrite n v =>
    obtain ⟨av, aa, an, af, ak, al, heq⟩ := s.regStore_effect n v
    rwa [applyInput, heq]
  | regRead n =>
    obtain ⟨reads, draws, heq⟩ := s.deliver_effect (s.regValue n)
    rwa [applyInput, heq]
  | memWrite sp i v =>
    obtain heq | ⟨-, -, heq⟩ | ⟨-, -, heq⟩ := s.cellStore_effect sp i v <;> rwa [applyInput, heq]
  | memRead sp i =>
    obtain ⟨reads, draws, heq⟩ := s.deliver_effect (s.cellValue sp i)
    rwa [applyInput, heq]
  | rst => exact absurd rfl he

/-- The low byte of a CMD write that decodes is the command's byte (R124, R170). -/
theorem decode_written_byte {more : List Byte} (h : decode [BitVec.ofNat 8 v] = .ok (i, more)) :
    v % 256 = (encodeByte i).toNat := by
  obtain ⟨hbyte, -⟩ := decode_cons_ok_iff.mp h
  rw [← decodeByte_ok_iff.mp hbyte, BitVec.toNat_ofNat]

/-- Settles O19, by the ways a step can come about; of the commands only RX_ENABLE and RX_RESUME write `rcvstate`. -/
theorem onlyHostLeavesReady : Obligations.OnlyHostLeavesReady := by
  intro s t hready hstep hleft
  cases step_inv hstep with
  | wait _ => exact absurd hready hleft
  | event e rest hin _ =>
    by_cases he : e = .rst
    · subst he
      exact ⟨rfl, .inl (by simp [hin])⟩
    · exact absurd (applyInput_ready (s := s.popped rest) he hready) hleft
  | command v rest hin i hdecode _ hexec eff =>
    have hbyte := decode_written_byte hdecode
    by_cases henable : i = .rxEnable
    · subst henable
      cases hexec
      exact ⟨rfl, .inr ⟨v, by simp [hin], .inl hbyte⟩⟩
    · by_cases hresume : i = .rxResume
      · subst hresume
        cases hexec
        exact ⟨rfl, .inr ⟨v, by simp [hin], .inr hbyte⟩⟩
      · obtain ⟨hsame, -⟩ := eff.sampler_eq henable hresume
        exact absurd (hsame.trans hready) hleft
  | illegal v rest _ e _ => exact absurd hready hleft

/-- Of the commands only RX_ENABLE sets `rx_enable` (R270, R271, R443). -/
theorem State.Effect.arms_only_rxEnable (eff : s.Effect i t) (hoff : s.rxEnable = false)
    (hon : t.rxEnable = true) : i = .rxEnable := by
  cases eff
  case enable => rfl
  case disable | play => cases hon
  all_goals exact absurd (hoff.symm.trans hon) (by decide)

/-- Settles O20, by the ways a step can come about. -/
theorem onlyRxEnableArms : Obligations.OnlyRxEnableArms := by
  intro s t hoff hstep hon
  have hnot : ¬ s.rxEnable = true := by simp [hoff]
  cases step_inv hstep with
  | wait _ => exact absurd hon hnot
  | event e rest hin _ =>
    by_cases he : e = .rst
    · subst he
      cases hon
    · exact absurd ((applyInput_sameOutputs (s.popped rest) he).rxEnable.symm.trans hon) hnot
  | command v rest hin i hdecode _ _ eff =>
    obtain rfl := eff.arms_only_rxEnable hoff hon
    exact ⟨v, by simp [hin], decode_written_byte hdecode⟩
  | illegal v rest _ e _ => exact absurd hon hnot

end Sys2Proof.Machine
end

section
/-! PROOFS. A clean signal is captured whole (R262 to R266, R566). The ticks of one duration store the count of the one
before, so the capture together with the count that the next change would store is what the sampler has heard so far;
an induction over the durations shows that it hears each of them. -/

namespace Sys2Proof.Machine

variable {s t : State} {c : Config} {level : Level} {m n : Nat} {es : List Nat} {rest : List Input} {x : Half}

-- Runs

theorem run_step (h : step s = .next t) :
    Host.Core.run Sys2Proof.core (n + 1) s = Host.Core.run Sys2Proof.core n t := by
  simp [Host.Core.run, Sys2Proof.core, h]

theorem run_add (h : Host.Core.run Sys2Proof.core m s = .next t) :
    Host.Core.run Sys2Proof.core (m + n) s = Host.Core.run Sys2Proof.core n t := by
  induction m generalizing s with
  | zero => cases h; rw [Nat.zero_add]
  | succ m ih =>
    obtain ⟨u, hstep, -⟩ := step_cases s
    rw [run_step hstep] at h
    rw [Nat.succ_add, run_step hstep, ih h]

-- The ticks of a signal

theorem otherLevel_iterate (l : Level) (i : Nat) : otherLevel^[i] l = if i % 2 = 0 then l else otherLevel l := by
  have hinv : Function.Involutive otherLevel := fun l => by cases l <;> rfl
  split
  · next h => rw [hinv.iterate_even (Nat.even_iff.mpr h), id]
  · next h => rw [hinv.iterate_odd (Nat.odd_iff.mpr (by omega))]

theorem levelTicks_cons (l : Level) (m : Nat) (es : List Nat) :
    levelTicks l (m :: es) = List.replicate m (.tick l) ++ levelTicks (otherLevel l) es := by
  cases l <;> rfl

theorem levelTicks_append (l : Level) (es fs : List Nat) :
    levelTicks l (es ++ fs) = levelTicks l es ++ levelTicks (otherLevel^[es.length] l) fs := by
  induction es generalizing l with
  | nil => cases l <;> rfl
  | cons m es ih =>
    rw [List.cons_append, levelTicks_cons, levelTicks_cons, ih, List.append_assoc]
    rfl

/-- Durations from level `l` on that the sampler counts exactly and that end no capture (R566): a space ends one only
at the tick after the last of these. -/
structure CleanFrom (c : Config) (l : Level) (es : List Nat) : Prop where
  counted : ∀ m ∈ es, 1 ≤ m ∧ m ≤ c.sampleMax
  spaces : ∀ i m, es[i]? = some m → otherLevel^[i] l = .space → m ≤ c.idleGapTicks + 1

theorem CleanFrom.tail (h : CleanFrom c level (m :: es)) : CleanFrom c (otherLevel level) es where
  counted k hk := h.counted k (List.mem_cons_of_mem m hk)
  spaces i k hk := h.spaces (i + 1) k hk

theorem CleanFrom.concat (h : CleanFrom c level es) (hpos : 1 ≤ m) (hmax : m ≤ c.sampleMax)
    (hgap : m ≤ c.idleGapTicks + 1) : CleanFrom c level (es ++ [m]) where
  counted k hk := by
    obtain hk | hk := List.mem_append.mp hk
    · exact h.counted k hk
    · rw [List.mem_singleton.mp hk]
      exact ⟨hpos, hmax⟩
  spaces i k hk hspace := by
    rw [List.getElem?_append] at hk
    split at hk
    · exact h.spaces i k hk hspace
    · rwa [← List.mem_singleton.mp (List.mem_of_getElem? hk)] at hgap

/-- A signal that meets R566, and the silence after it up to the tick before the one that exceeds the threshold. -/
theorem cleanFrom_signal (hwf : c.wf = true) (hcounted : ∀ m ∈ es, 1 ≤ m ∧ m ≤ c.sampleMax)
    (hspaces : ∀ i m, i % 2 = 1 → es[i]? = some m → m ≤ c.idleGapTicks) :
    CleanFrom c .mark (es ++ [c.idleGapTicks + 1]) := by
  have hsignal : CleanFrom c .mark es := by
    refine ⟨hcounted, fun i m hm hspace => ?_⟩
    have hi : i % 2 = 1 := by
      rw [otherLevel_iterate] at hspace
      split at hspace
      · cases hspace
      · omega
    exact Nat.le_succ_of_le (hspaces i m hi hm)
  exact hsignal.concat (Nat.succ_pos _) (Config.wf_idleGap hwf) le_rfl

/-- A signal ends with a mark, so that all but the last tick of the silence after it are one more duration. -/
theorem levelTicks_silence (hodd : es.length % 2 = 1) :
    levelTicks .mark es ++ (levelTicks .space [n + 1] ++ rest)
      = levelTicks .mark (es ++ [n]) ++ .tick .space :: rest := by
  rw [levelTicks_append, otherLevel_iterate, if_neg (by omega)]
  simp [levelTicks, otherLevel, List.replicate_succ']

-- What the sampler has heard

/-- The capture, and after it the count that the next change of level would store (R263). -/
def State.heard (s : State) : List Nat := s.capture ++ [s.count.counter.toNat]

theorem State.heard_eq_concat (h : s.heard = es ++ [m]) : s.capture = es ∧ s.count.counter.toNat = m := by
  obtain ⟨hcapture, hlast⟩ := List.append_inj' h rfl
  exact ⟨hcapture, List.singleton_inj.mp hlast⟩

/-- `s` in the middle of a capture: only the sampler's own state and the events to come are given anew. -/
def State.capturing (s : State) (rest : List Input) (raw : Memory 16) (rawlen counter : Half) (level : Level) :
    State :=
  { s with inputs := rest, raw := raw, rawlen := rawlen, rcvstate := .active, counter := counter,
           curLevel := level }

theorem State.capture_of_first (hraw : t.raw = s.raw.write 0 x) (hlen : t.rawlen = 1) : t.capture = [x.toNat] := by
  simp [State.capture, hlen, State.rawCell_write_self hraw]

theorem State.capture_of_next (hraw : t.raw = s.raw.write s.rawlen.toNat x) (hepoch : t.epoch = s.epoch)
    (hlen : t.rawlen.toNat = s.rawlen.toNat + 1) : t.capture = s.capture ++ [x.toNat] := by
  have hold : ∀ i ∈ List.range s.rawlen.toNat, (t.rawCell i).toNat = (s.rawCell i).toNat := fun i hi => by
    rw [State.rawCell_write_ne hraw hepoch (List.mem_range.mp hi).ne]
  rw [State.capture, hlen, List.range_succ, List.map_append, List.map_congr_left hold, State.capture,
    List.map_singleton, State.rawCell_write_self hraw]

-- One duration

/-- Ticks at the level the line has, short of the silence that ends a capture, are counted and do nothing else. -/
theorem run_same_level (hen : s.rxEnable = true) (hwf : s.cfg.wf = true)
    (hin : s.inputs = List.replicate n (.tick s.curLevel) ++ rest)
    (hgap : s.rcvstate = .active → s.curLevel = .space → s.counter.toNat + n ≤ s.cfg.idleGapTicks) :
    ∃ cnt : Half, Host.Core.run Sys2Proof.core n s = .next { s with inputs := rest, counter := cnt }
      ∧ min (cnt.toNat + 1) s.cfg.sampleMax = min (s.counter.toNat + n + 1) s.cfg.sampleMax := by
  induction n generalizing s with
  | zero =>
    obtain rfl : s.inputs = rest := hin
    exact ⟨s.counter, rfl, rfl⟩
  | succ n ih =>
    have hcount := State.count_counter_toNat hwf
    have hnot : ¬ s.GapExceeded := fun ⟨hactive, hspace, habove⟩ => by
      have := hgap hactive hspace
      omega
    have hstep := (step_tick hin).trans (congrArg _ (tick_same_level (s := s.popped _) hen rfl hnot))
    obtain ⟨cnt, hrun, hcnt⟩ := ih
      (s := (s.popped (List.replicate n (.tick s.curLevel) ++ rest)).count) hen hwf rfl fun hactive hspace => by
      have := hgap hactive hspace
      change s.count.counter.toNat + n ≤ s.cfg.idleGapTicks
      omega
    refine ⟨cnt, (run_step hstep).trans hrun, hcnt.trans ?_⟩
    change min (s.count.counter.toNat + n + 1) s.cfg.sampleMax = _
    omega

/-- The ticks of one duration: the first is a change of level, after which the sampler is in ACTIVE with the counter at
0, and the others are counted. -/
theorem run_duration {raw : Memory 16} {len : Half} {stored : List Nat} (hen : s.rxEnable = true) (hwf : s.cfg.wf = true)
    (hin : s.inputs = List.replicate m (.tick level) ++ rest) (hclean : CleanFrom s.cfg level (m :: es))
    (hedge : ∀ r, tick level (s.popped r) = s.capturing r raw len 0 level)
    (hstored : (s.capturing rest raw len 0 level).capture = stored) :
    ∃ cnt, Host.Core.run Sys2Proof.core m s = .next (s.capturing rest raw len cnt level)
      ∧ (s.capturing rest raw len cnt level).heard = stored ++ [m] := by
  obtain ⟨hpos, hmax⟩ := hclean.counted m List.mem_cons_self
  obtain ⟨n, rfl⟩ := Nat.exists_eq_add_of_le' hpos
  have hstep := (step_tick hin).trans (congrArg _ (hedge _))
  obtain ⟨cnt, hrun, hcnt⟩ := run_same_level (n := n) (rest := rest)
    (s := s.capturing (List.replicate n (.tick level) ++ rest) raw len 0 level) hen hwf rfl fun _ hspace => by
      simpa [State.capturing] using hclean.spaces 0 (n + 1) rfl hspace
  refine ⟨cnt, (run_step hstep).trans hrun, congrArg₂ (· ++ [·]) hstored ?_⟩
  calc (s.capturing rest raw len cnt level).count.counter.toNat
      = min (cnt.toNat + 1) s.cfg.sampleMax := State.count_counter_toNat hwf
    _ = min (0 + n + 1) s.cfg.sampleMax := hcnt
    _ = n + 1 := by omega

-- All durations

/-- In ACTIVE the sampler hears one duration after the other (R264), while there is room for those it stores. -/
theorem run_active_levelTicks (hen : s.rxEnable = true) (hwf : s.cfg.wf = true) (hactive : s.rcvstate = .active)
    (hin : s.inputs = levelTicks (otherLevel s.curLevel) es ++ rest)
    (hclean : CleanFrom s.cfg (otherLevel s.curLevel) es) (hroom : s.rawlen.toNat + es.length ≤ s.cfg.rawCapacity) :
    ∃ raw len cnt, ∃ u : State, u = s.capturing rest raw len cnt (otherLevel^[es.length] s.curLevel)
      ∧ Host.Core.run Sys2Proof.core es.sum s = .next u ∧ u.heard = s.heard ++ es := by
  induction es generalizing s with
  | nil =>
    have hrest : s.inputs = rest := by rw [hin]; cases s.curLevel <;> rfl
    have hsame : s = s.capturing rest s.raw s.rawlen s.counter s.curLevel := by
      rw [← hrest, State.capturing, ← hactive]
    exact ⟨_, _, _, s, hsame, rfl, (List.append_nil _).symm⟩
  | cons m es ih =>
    have hfree : s.rawlen.toNat < s.cfg.rawCapacity := by rw [List.length_cons] at hroom; omega
    have hne : otherLevel s.curLevel ≠ s.curLevel := by cases s.curLevel <;> decide
    have hlen := State.push_rawlen_toNat hwf hfree
    rw [levelTicks_cons, List.append_assoc] at hin
    obtain ⟨cnt, hrun, hheard⟩ := run_duration (raw := s.count.push.raw) (len := s.push.rawlen) hen hwf hin hclean
      (fun r => by
        rw [tick_active_push (s := s.popped r) hen hactive hne hfree, State.capturing, ← hactive]
        rfl)
      (State.capture_of_next (s := s) rfl rfl hlen)
    obtain ⟨raw, len, cnt', u, hu, hrun', hheard'⟩ := ih
      (s := s.capturing (levelTicks (otherLevel (otherLevel s.curLevel)) es ++ rest) s.count.push.raw s.push.rawlen
        cnt (otherLevel s.curLevel))
      hen hwf rfl rfl hclean.tail (by
        rw [List.length_cons] at hroom
        change s.push.rawlen.toNat + es.length ≤ s.cfg.rawCapacity
        omega)
    refine ⟨raw, len, cnt', u, hu, by rw [List.sum_cons, run_add hrun, hrun'], ?_⟩
    rw [hheard', hheard, State.heard, List.append_assoc, List.singleton_append]

/-- From a quiet line in IDLE the sampler hears the pre-roll gap, and then the signal. -/
theorem run_idle_levelTicks (hen : s.rxEnable = true) (hwf : s.cfg.wf = true) (hidle : s.rcvstate = .idle)
    (hcur : s.curLevel = .space) (hne : es ≠ []) (hin : s.inputs = levelTicks .mark es ++ rest)
    (hclean : CleanFrom s.cfg .mark es) (hroom : es.length ≤ s.cfg.rawCapacity) :
    ∃ raw len cnt, ∃ u : State, u = s.capturing rest raw len cnt (otherLevel^[es.length] .space)
      ∧ Host.Core.run Sys2Proof.core es.sum s = .next u ∧ u.heard = s.count.counter.toNat :: es := by
  obtain ⟨m, es, rfl⟩ := List.exists_cons_of_ne_nil hne
  rw [levelTicks_cons, List.append_assoc] at hin
  obtain ⟨cnt, hrun, hheard⟩ := run_duration (raw := s.count.startCapture.raw) (len := 1) hen hwf hin hclean
    (fun r => tick_idle_mark (s := s.popped r) hen hidle hcur) (State.capture_of_first (s := s) rfl rfl)
  obtain ⟨raw, len, cnt', u, hu, hrun', hheard'⟩ := run_active_levelTicks (rest := rest) (es := es)
    (s := s.capturing (levelTicks (otherLevel .mark) es ++ rest) s.count.startCapture.raw 1 cnt .mark) hen hwf rfl rfl
    hclean.tail (by
      rw [List.length_cons] at hroom
      change 1 + es.length ≤ s.cfg.rawCapacity
      omega)
  refine ⟨raw, len, cnt', u, hu, by rw [List.sum_cons, run_add hrun, hrun'], ?_⟩
  rw [hheard', hheard]
  rfl

/-- The tick of SPACE that brings the count over the threshold ends the capture (R266). -/
theorem step_silence_ends_capture (hen : s.rxEnable = true) (hactive : s.rcvstate = .active)
    (hcur : s.curLevel = .space) (hin : s.inputs = .tick .space :: rest)
    (hcount : s.count.counter.toNat = s.cfg.idleGapTicks + 1) :
    step s = .next { s with
      inputs := rest, counter := BitVec.ofNat 16 (s.cfg.idleGapTicks + 1), rcvstate := .ready } := by
  have hgap : (s.popped rest).GapExceeded := ⟨hactive, hcur, hcount.symm.le⟩
  rw [step_tick hin, tick_gapExceeded (s := s.popped rest) hen hgap, ← hcount, BitVec.ofNat_toNat, BitVec.setWidth_eq]
  rfl

/-- Settles O16: the quiet line is counted, then the sampler hears the signal and, as one more duration, the silence up
to its last tick, which ends the capture. -/
theorem cleanSignalIsCapturedWhole : Obligations.CleanSignalIsCapturedWhole := by
  intro s g es rest hwf hen hidle hcur hodd hroom hcounted hspaces hin
  have hclean := cleanFrom_signal hwf hcounted hspaces
  have hticks : s.inputs = List.replicate g (.tick s.curLevel)
      ++ (levelTicks .mark (es ++ [s.cfg.idleGapTicks + 1]) ++ .tick .space :: rest) := by
    rw [hin, hcur, levelTicks_silence hodd, levelTicks_cons, levelTicks, List.append_nil]
  obtain ⟨cnt, hquiet, hcnt⟩ := run_same_level hen hwf hticks (by simp [hidle])
  obtain ⟨raw, len, cnt', u, hu, hsignal, hheard⟩ := run_idle_levelTicks (rest := .tick .space :: rest)
    (s := { s with
      inputs := levelTicks .mark (es ++ [s.cfg.idleGapTicks + 1]) ++ .tick .space :: rest, counter := cnt })
    hen hwf hidle hcur (by simp) rfl hclean (by simpa using hroom)
  obtain ⟨hcapture, hcount⟩ := State.heard_eq_concat (hheard.trans (List.cons_append ..).symm)
  have hpreroll := (State.count_counter_toNat (s := { s with counter := cnt }) hwf).trans hcnt
  have hlevel : otherLevel^[(es ++ [s.cfg.idleGapTicks + 1]).length] .space = .space := by
    rw [otherLevel_iterate, List.length_append, List.length_singleton, if_pos (by omega)]
  rw [hlevel] at hu
  have hend : step u = .next { u with
      inputs := rest, counter := BitVec.ofNat 16 (s.cfg.idleGapTicks + 1), rcvstate := .ready } := by
    subst hu
    exact step_silence_ends_capture hen rfl rfl rfl hcount
  have hsum : es.sum + (s.cfg.idleGapTicks + 2) = (es ++ [s.cfg.idleGapTicks + 1]).sum + 1 := by
    rw [List.sum_append, List.sum_singleton, Nat.add_assoc]
  refine ⟨_, by rw [hsum, run_add hquiet, run_add hsignal, run_step hend]; rfl, ?_, ?_⟩
  · exact hcapture.trans (congrArg (· :: es) hpreroll)
  · rw [hu, hcur]
    rfl

end Sys2Proof.Machine
end

section
/-! PROOFS. The decode commands and the AVAILABLE commands (R303 to R307): the priority loop, what RX_DECODE and
RX_DECODE_COPY write in READY, what waits for READY, and which commands write the results. -/

namespace Sys2Proof.Machine

variable {c : Config} {raw : List Nat} {tag : Byte} {s t : State} {i : Instr}

-- The priority loop (R303)

theorem firstMatch_cons_of_none {p : Protocol} (h : c.decEnabled p = true → runDecoder c raw tag p = none)
    (ps : List Protocol) : firstMatch c raw tag (p :: ps) = firstMatch c raw tag ps := by
  cases hen : c.decEnabled p with
  | false => simp [firstMatch, hen]
  | true => simp [firstMatch, hen, h hen]

/-- The loop passes over decoders that are not enabled or do not succeed. -/
theorem firstMatch_append_of_none {before : List Protocol}
    (h : ∀ p ∈ before, c.decEnabled p = true → runDecoder c raw tag p = none) (after : List Protocol) :
    firstMatch c raw tag (before ++ after) = firstMatch c raw tag after := by
  induction before with
  | nil => rfl
  | cons p before ih =>
    obtain ⟨hp, hbefore⟩ := List.forall_mem_cons.mp h
    rw [List.cons_append, firstMatch_cons_of_none hp, ih hbefore]

theorem firstMatch_cons_of_some {p : Protocol} {r : Decoded} (hen : c.decEnabled p = true)
    (h : runDecoder c raw tag p = some r) (ps : List Protocol) :
    firstMatch c raw tag (p :: ps) = some (p, r) := by
  simp [firstMatch, hen, h]

/-- Settles O43: the loop passes over what does not succeed and stops at what does. -/
theorem dispatchFirstMatchWins : Obligations.DispatchFirstMatchWins := by
  intro c raw tag
  refine ⟨fun before after p r horder hbefore hen hp => ?_, fun hnone => ?_⟩
  · rw [dispatch, horder, firstMatch_append_of_none hbefore, firstMatch_cons_of_some hen hp]
  · have hmatch := firstMatch_append_of_none hnone []
    rw [List.append_nil] at hmatch
    rw [dispatch, hmatch]
    rfl

-- The decode commands in READY (R305, R306)

theorem State.isReady_of_not_ready (h : s.rcvstate ≠ .ready) : s.isReady = false := by
  simp [State.isReady, h]

/-- Settles O44. -/
theorem rxDecodeWritesResult : Obligations.RxDecodeWritesResult := by
  intro s tag r hready hdispatch
  have hs : s.dispatched = (tag, r) := hdispatch
  simp only [exec, execRxDecode, State.isReady_of_ready hready, if_true, hs]
  rfl

/-- A SNAPRAW cell after the copy of the capture (R132). -/
theorem State.snapCell_of_copy {n : Nat} (hcopy : t.snapraw = s.copyCells n) (hepoch : t.epoch = s.epoch) (j : Nat) :
    t.snapCell j = if j < n then s.rawCell j else s.snapCell j := by
  rw [State.snapCell, cellOr, hcopy, State.copyCells_find, hepoch]
  split <;> rfl

/-- Settles O45: SNAPRAW by the cells of the copy, everything else by the command's update. -/
theorem rxDecodeCopyOwnsItsCells : Obligations.RxDecodeCopyOwnsItsCells := by
  intro s tag r hready hdispatch
  have hs : s.dispatched = (tag, r) := hdispatch
  simp only [exec, execRxDecodeCopy, State.isReady_of_ready hready, if_true, hs]
  exact ⟨_, rfl, State.snapCell_of_copy (s := s) rfl rfl, rfl⟩

-- Outside READY, and AVAILABLE (R305 to R307)

theorem State.available_of_enabled {p : Protocol} (hen : s.cfg.decEnabled p = true) :
    s.available p
      = s.answer (if s.isReady then (runDecoder s.cfg s.capture s.lastTag p).isSome else false) := by
  rw [State.available, if_pos hen]
  split <;> rfl

/-- Settles O46: each command named tests READY first, and AVAILABLE right after its codec. -/
theorem decodesWaitForReady : Obligations.DecodesWaitForReady := by
  intro s i hnot hi
  have hwait := State.isReady_of_not_ready hnot
  change exec i s = .next (s.answer false)
  rcases hi with hi | ⟨p, hen, hi⟩
  · simp only [List.mem_cons, List.not_mem_nil, or_false] at hi
    rcases hi with rfl | rfl | rfl
    · simp [exec, execRxDecode, hwait]
    · simp [exec, execRxDecodeCopy, hwait]
    · simp [exec, execAvailableHash, hwait]
  · rw [exec_of_mem_availableCommands hi, State.available_of_enabled hen, hwait]
    rfl

/-- Settles O47. -/
theorem availableAsksOneDecoder : Obligations.AvailableAsksOneDecoder := by
  intro s hready
  have hs := State.isReady_of_ready hready
  refine ⟨?_, fun ip hip hen => ?_⟩
  · rw [exec, execAvailableHash, hs]
    rfl
  · rw [exec_of_mem_availableCommands hip, State.available_of_enabled hen, hs]
    rfl

-- Who writes the results (R304, R306)

/-- What a command that changes a result is, and that it found the sampler in READY. -/
structure State.ResultsFrom (s : State) (i : Instr) (t : State) : Prop where
  res : t.res ≠ s.res → s.rcvstate = .ready ∧ i = .rxDecode
  snap : t.snap ≠ s.snap ∨ (∃ j, t.snapCell j ≠ s.snapCell j) → s.rcvstate = .ready ∧ i = .rxDecodeCopy
  lastTag : t.lastTag ≠ s.lastTag → s.rcvstate = .ready ∧ (i = .rxDecode ∨ i = .rxDecodeCopy)

theorem State.resultsFrom_of_same (hres : t.res = s.res) (hsnap : t.snap = s.snap)
    (hsnapraw : t.snapraw = s.snapraw) (hepoch : t.epoch = s.epoch) (htag : t.lastTag = s.lastTag) :
    s.ResultsFrom i t where
  res h := absurd hres h
  snap h := by
    rcases h with h | ⟨j, hj⟩
    · exact absurd hsnap h
    · exact absurd (by rw [State.snapCell, hsnapraw, hepoch, State.snapCell]) hj
  lastTag h := absurd htag h

theorem State.ready_of_isReady (h : s.isReady = true) : s.rcvstate = .ready := eq_of_beq h

/-- Of the commands only the two decode commands write a result, and only in READY. -/
theorem State.Effect.resultsFrom (eff : s.Effect i t) : s.ResultsFrom i t := by
  cases eff
  case decode h =>
    have hready := State.ready_of_isReady h
    exact ⟨fun _ => ⟨hready, rfl⟩, by rintro (hne | ⟨j, hne⟩) <;> exact absurd rfl hne,
      fun _ => ⟨hready, .inl rfl⟩⟩
  case copy h =>
    have hready := State.ready_of_isReady h
    exact ⟨fun hne => absurd rfl hne, fun _ => ⟨hready, rfl⟩, fun _ => ⟨hready, .inr rfl⟩⟩
  all_goals exact State.resultsFrom_of_same rfl rfl rfl rfl rfl

/-- What a step can do to the results: what the command `i` it ran can, where it ran one. A step that runs none does
as much as NOP. -/
theorem step_resultsFrom (h : step s = .next t) (hrst : s.inputs.head? ≠ some .rst) :
    ∃ i, s.ResultsFrom i t
      ∧ (i ≠ .nop → ∃ v, s.inputs.head? = some (.regWrite 0 v) ∧ v % 256 = (encodeByte i).toNat) := by
  cases step_inv h with
  | wait _ => exact ⟨.nop, State.resultsFrom_of_same rfl rfl rfl rfl rfl, fun hne => absurd rfl hne⟩
  | event e rest hin _ =>
    have same := applyInput_sameOutputs (s.popped rest) (e := e) (fun he => hrst (by simp [hin, he]))
    exact ⟨.nop, State.resultsFrom_of_same same.res same.snap same.snapraw same.epoch same.lastTag,
      fun hne => absurd rfl hne⟩
  | command v rest hin i hdecode _ _ eff =>
    obtain ⟨hres, hsnap, htag⟩ := eff.resultsFrom
    exact ⟨i, ⟨hres, hsnap, htag⟩, fun _ => ⟨v, by simp [hin], decode_written_byte hdecode⟩⟩
  | illegal v rest _ e _ =>
    exact ⟨.nop, State.resultsFrom_of_same rfl rfl rfl rfl rfl, fun hne => absurd rfl hne⟩

/-- Settles O22. -/
theorem resultsWrittenOnlyByDecodes : Obligations.ResultsWrittenOnlyByDecodes := by
  intro s t hstep hrst
  obtain ⟨i, ⟨hres, hsnap, htag⟩, hcommand⟩ := step_resultsFrom hstep hrst
  refine ⟨fun hne => ?res, fun hne => ?snap, fun hne => ?lastTag⟩
  case res =>
    obtain ⟨hready, rfl⟩ := hres hne
    exact ⟨hready, hcommand (by decide)⟩
  case snap =>
    obtain ⟨hready, rfl⟩ := hsnap hne
    exact ⟨hready, hcommand (by decide)⟩
  case lastTag =>
    obtain ⟨hready, rfl | rfl⟩ := htag hne
    all_goals
      obtain ⟨v, hhead, hbyte⟩ := hcommand (by decide)
      exact ⟨hready, v, hhead, by rw [hbyte]; decide⟩

end Sys2Proof.Machine
end

section
/-! PROOFS. No decoder but JVC's reads the pre-roll gap or `last_tag` (R301, R331): the frame reader drops entry 0, and
the level cursor of the biphase decoders starts after it and only moves on. -/

namespace Sys2Proof.Machine

variable {c : Config} {t1 : Nat} {es : List Nat} {tag tag' : Byte}

/-- The frame reader sees of entry 0 only that it is there. -/
theorem decFrame_preroll (c : Config) (d : FrameDescriptor) (g g' : Nat) (es : List Nat) (header : Bool) :
    decFrame c d (g :: es) header = decFrame c d (g' :: es) header := rfl

theorem decValueFrame_preroll (c : Config) (d : FrameDescriptor) (g g' : Nat) (es : List Nat) :
    decValueFrame c d (g :: es) = decValueFrame c d (g' :: es) := rfl

theorem necRepeat_preroll (c : Config) (d : FrameDescriptor) (g g' : Nat) (es : List Nat) :
    necRepeat c d (g :: es) = necRepeat c d (g' :: es) := by
  match es with
  | [] | [_] | [_, _] | [_, _, _] | _ :: _ :: _ :: _ :: _ => rfl

theorem decNec_preroll (g g' : Nat) : decNec c (g :: es) tag = decNec c (g' :: es) tag' := by
  simp only [decNec, List.length_cons, necRepeat_preroll c _ g g', decValueFrame_preroll c _ g g']

theorem decAiwa_preroll (g g' : Nat) : decAiwa c (g :: es) tag = decAiwa c (g' :: es) tag' := by
  simp only [decAiwa, decFrame_preroll c _ g g']

-- The level cursor (R381)

/-- The cursor moves on. -/
theorem getLevel_mono (c : Config) (raw : List Nat) (t1 : Nat) (k : Cursor) : k.o ≤ (getLevel c raw t1 k).2.o := by
  unfold getLevel
  dsimp only
  split
  · exact le_rfl
  · split
    · exact le_rfl
    · split
      · exact Nat.le_succ _
      · exact le_rfl

/-- Past entry 0 the cursor does not see it. -/
theorem getLevel_preroll {k : Cursor} (hk : 1 ≤ k.o) (g g' : Nat) :
    getLevel c (g :: es) t1 k = getLevel c (g' :: es) t1 k := by
  obtain ⟨o, used⟩ := k
  obtain ⟨o, rfl⟩ := Nat.exists_eq_add_of_le' hk
  rfl

theorem expectLevels_preroll {k : Cursor} (hk : 1 ≤ k.o) (g g' : Nat) (ls : List Level) :
    expectLevels c (g :: es) t1 ls k = expectLevels c (g' :: es) t1 ls k := by
  induction ls generalizing k with
  | nil => rfl
  | cons l ls ih =>
    simp only [expectLevels, getLevel_preroll hk g g', ih (hk.trans (getLevel_mono c (g' :: es) t1 k))]

theorem expectLevels_mono {raw : List Nat} {ls : List Level} {k k' : Cursor}
    (h : expectLevels c raw t1 ls k = .ok k') : k.o ≤ k'.o := by
  induction ls generalizing k with
  | nil => cases h; exact le_rfl
  | cons l ls ih =>
    simp only [expectLevels] at h
    split at h
    · exact (getLevel_mono c raw t1 k).trans (ih h)
    · cases h

theorem halfOf_preroll {k : Cursor} (hk : 1 ≤ k.o) (g g' : Nat) (doubled : Bool) :
    halfOf c (g :: es) t1 doubled k = halfOf c (g' :: es) t1 doubled k := by
  simp only [halfOf, getLevel_preroll hk g g', getLevel_preroll (hk.trans (getLevel_mono c (g' :: es) t1 k)) g g']

theorem halfOf_mono {raw : List Nat} {doubled : Bool} {k : Cursor} {a : Option Level × Cursor}
    (h : halfOf c raw t1 doubled k = .ok a) : k.o ≤ a.2.o := by
  simp only [halfOf] at h
  split at h
  · split at h
    · cases h
      exact (getLevel_mono c raw t1 k).trans (getLevel_mono c raw t1 _)
    · cases h
  · cases h
    exact getLevel_mono c raw t1 k

theorem readBiphase_preroll {d : BiphaseDescriptor} {one : Level} {dbl : Option Nat} {fuel v n : Nat} {k : Cursor}
    (hk : 1 ≤ k.o) (g g' : Nat) :
    readBiphase c d one dbl (g :: es) fuel k v n = readBiphase c d one dbl (g' :: es) fuel k v n := by
  induction fuel generalizing k v n with
  | zero => rfl
  | succ fuel ih =>
    simp only [readBiphase, List.length_cons, halfOf_preroll hk g g']
    split
    · rfl
    · split
      · rfl
      · next a ha =>
        have hka := hk.trans (halfOf_mono ha)
        simp only [halfOf_preroll hka g g']
        split
        · rfl
        · next b hb => simp only [ih (hka.trans (halfOf_mono hb))]

theorem biphaseResult_preroll {d : BiphaseDescriptor} {one : Level} {dbl : Option Nat} {k : Cursor}
    (hk : 1 ≤ k.o) (g g' : Nat) :
    biphaseResult c d one dbl (g :: es) k = biphaseResult c d one dbl (g' :: es) k := by
  rw [biphaseResult, readBiphase_preroll hk g g', biphaseResult]

theorem decRc5_preroll (g g' : Nat) : decRc5 c (g :: es) tag = decRc5 c (g' :: es) tag' := by
  simp only [decRc5, List.length_cons, expectLevels_preroll (k := ⟨1, 0⟩) le_rfl g g']
  split
  · rfl
  · split
    · rfl
    · next k hk => exact biphaseResult_preroll (expectLevels_mono hk) g g'

theorem decRc6_preroll (g g' : Nat) : decRc6 c (g :: es) tag = decRc6 c (g' :: es) tag' := by
  simp only [decRc6, List.length_cons, List.getD_cons_succ, expectLevels_preroll (k := ⟨3, 0⟩) (by decide) g g']
  split
  · rfl
  · split
    · split
      · rfl
      · next k hk => exact biphaseResult_preroll ((by decide : 1 ≤ 3).trans (expectLevels_mono hk)) g g'
    · rfl

/-- Settles O37, decoder by decoder: those that only read a frame are blind to entry 0 because the frame reader is. -/
theorem decodersIgnorePreroll : Obligations.DecodersIgnorePreroll := by
  intro c p g g' es tag tag' hp
  cases p
  case jvc => exact absurd rfl hp
  case rc5 => exact congrArg Except.toOption (decRc5_preroll g g')
  case rc6 => exact congrArg Except.toOption (decRc6_preroll g g')
  case nec => exact congrArg Except.toOption (decNec_preroll g g')
  case aiwa => exact congrArg Except.toOption (decAiwa_preroll g g')
  all_goals rfl

end Sys2Proof.Machine
end

section
/-! PROOFS. The ideal capture of a pulse frame under the default parameters (R246, R406): every rounded duration lies in
the band of its nominal duration, so the frame reader gives the frame word back, and each decoder its fields. -/

namespace Sys2Proof.Machine

variable {q : Rounding} {m z o f n v a g : Nat} {d : FrameDescriptor} {header : Bool} {plan : List Nat}

-- Durations that survive the rounding (R245)

/-- A mark whose roundings all lie in its band. Just above 300 µs the band starts too high for a duration rounded
down. -/
abbrev MarkFits (m : Nat) : Prop := m = 300 ∨ 350 ≤ m

/-- A space whose roundings all lie in its band. -/
abbrev SpaceFits (m : Nat) : Prop := 400 ≤ m

theorem matchMark_ticks (q : Rounding) (h : MarkFits m) : matchMark defaultConfig (q.ticks m) m = true := by
  rw [matchMark_default_iff]
  cases q <;> simp only [Rounding.ticks] <;> omega

theorem matchSpace_ticks (q : Rounding) (h : SpaceFits m) : matchSpace defaultConfig (q.ticks m) m = true := by
  rw [matchSpace_default_iff (by omega)]
  cases q <;> simp only [Rounding.ticks] <;> omega

/-- A mark and a space in front of a plan, as captured ideally. -/
theorem Within.ideal_pair (hm : MarkFits m) (hz : SpaceFits z)
    (h : Within defaultConfig .mark plan (plan.map q.ticks)) :
    Within defaultConfig .mark (m :: z :: plan) ((m :: z :: plan).map q.ticks) :=
  ⟨matchMark_ticks q hm, matchSpace_ticks q hz, h⟩

theorem Within.ideal_pairOf {present : Bool} (hfits : present = true → MarkFits m ∧ SpaceFits z)
    (h : Within defaultConfig .mark plan (plan.map q.ticks)) :
    Within defaultConfig .mark (pairOf present m z ++ plan) ((pairOf present m z ++ plan).map q.ticks) := by
  cases present with
  | false => exact h
  | true => exact Within.ideal_pair (hfits rfl).1 (hfits rfl).2 h

-- Rows of the descriptor table

/-- Two bands of spaces have no tick count in common (R245). -/
abbrev SpacesApart (z o : Nat) : Prop :=
  40 ≤ z ∧ 40 ≤ o ∧ ((5 * z - 200) / 200 < (3 * o - 401) / 200 ∨ (5 * o - 200) / 200 < (3 * z - 401) / 200)

/-- Two bands of marks have no tick count in common (R245). -/
abbrev MarksApart (z o : Nat) : Prop :=
  (5 * z + 600) / 200 < (3 * o + 399) / 200 ∨ (5 * o + 600) / 200 < (3 * z + 399) / 200

theorem SpacesApart.disjoint (h : SpacesApart z o) (hz : matchSpace defaultConfig m z = true) :
    matchSpace defaultConfig m o = false := by
  obtain ⟨hz40, ho40, hapart⟩ := h
  rw [matchSpace_default_iff hz40] at hz
  rw [← Bool.not_eq_true, matchSpace_default_iff ho40]
  omega

theorem MarksApart.disjoint (h : MarksApart z o) (hz : matchMark defaultConfig m z = true) :
    matchMark defaultConfig m o = false := by
  rw [matchMark_default_iff] at hz
  rw [← Bool.not_eq_true, matchMark_default_iff]
  omega

/-- Every duration of a descriptor survives every rounding, and ONE and ZERO are told apart. -/
structure FrameFits (d : FrameDescriptor) : Prop where
  pre : d.preMark ≠ 0 → MarkFits d.preMark ∧ SpaceFits d.preSpace
  hdr : d.hdrMark ≠ 0 → MarkFits d.hdrMark ∧ SpaceFits d.hdrSpace
  distance : d.kind = .distance → MarkFits d.bitMark ∧ SpaceFits d.oneSpace ∧ SpaceFits d.zeroSpace
    ∧ MarkFits d.stopMark ∧ SpacesApart d.zeroSpace d.oneSpace
  width : d.kind = .width → MarkFits d.oneMark ∧ MarkFits d.zeroMark ∧ SpaceFits d.bitSpace
    ∧ MarksApart d.zeroMark d.oneMark ∧ 1 ≤ d.nmin ∧ d.preMark = 0

/-- The rows of the default table that have a decoder. -/
theorem defaultTable_fits :
    ∀ d ∈ [defaultConfig.table.nec, defaultConfig.table.sony, defaultConfig.table.panasonic,
      defaultConfig.table.jvc, defaultConfig.table.samsung, defaultConfig.table.whynter,
      defaultConfig.table.aiwa, defaultConfig.table.lg, defaultConfig.table.sanyo,
      defaultConfig.table.mitsubishi, defaultConfig.table.denon], FrameFits d := by
  intro d hd
  fin_cases hd <;> exact ⟨by decide, by decide, by decide, by decide⟩

-- Frames

theorem Within.ideal_distance (hbit : MarkFits d.bitMark) (hone : SpaceFits d.oneSpace) (hzero : SpaceFits d.zeroSpace)
    (hstop : MarkFits d.stopMark) (f n : Nat) :
    Within defaultConfig .mark (distanceCells d f n ++ [d.stopMark])
      ((distanceCells d f n ++ [d.stopMark]).map q.ticks) := by
  induction n with
  | zero => exact ⟨matchMark_ticks q hstop, trivial⟩
  | succ n ih =>
    refine Within.ideal_pair hbit ?_ ih
    split
    · exact hone
    · exact hzero

theorem Within.ideal_width (hone : MarkFits d.oneMark) (hzero : MarkFits d.zeroMark) (hspace : SpaceFits d.bitSpace)
    (f n : Nat) : Within defaultConfig .mark (widthCells d f n) ((widthCells d f n).map q.ticks) := by
  induction n with
  | zero => trivial
  | succ n ih =>
    have hmark : MarkFits (if f.testBit n then d.oneMark else d.zeroMark) := by
      split
      · exact hone
      · exact hzero
    cases n with
    | zero => exact ⟨matchMark_ticks q hmark, trivial⟩
    | succ n => exact Within.ideal_pair hmark hspace ih

theorem Within.ideal_frameBody (hd : FrameFits d) (f n : Nat) :
    Within defaultConfig .mark (frameBody d f n) ((frameBody d f n).map q.ticks) := by
  cases hkind : d.kind with
  | distance =>
    obtain ⟨hbit, hone, hzero, hstop, -⟩ := hd.distance hkind
    rw [frameBody_of_distance hkind]
    exact Within.ideal_distance hbit hone hzero hstop f n
  | width =>
    obtain ⟨hone, hzero, hspace, -⟩ := hd.width hkind
    rw [frameBody_of_width hkind]
    exact Within.ideal_width hone hzero hspace f n

theorem Within.ideal_encFrame (hd : FrameFits d) (f n : Nat) (header : Bool) :
    Within defaultConfig .mark (encFrame d f n header) ((encFrame d f n header).map q.ticks) := by
  rw [encFrame_eq]
  refine Within.ideal_pairOf (fun hpre => hd.pre (by simpa using hpre)) ?_
  refine Within.ideal_pairOf (fun hhdr => hd.hdr ?_) (Within.ideal_frameBody hd f n)
  rw [Bool.and_eq_true] at hhdr
  simpa using hhdr.2

/-- The frame reader gives back the word of a frame captured ideally (R406). -/
theorem decFrame_idealCapture (hd : FrameFits d) (hmin : d.nmin ≤ n) (hmax : n ≤ d.nmax) (hf : f < 2 ^ n)
    (q : Rounding) (g : Nat) (header : Bool) :
    decFrame defaultConfig d (idealCapture q g (encFrame d f n header)) header = .ok (f, n) := by
  refine frameWithinToleranceDecodes _ d f n g header _ hmin hmax hf (fun hkind m hz => ?_) (fun hkind => ?_)
    (Within.ideal_encFrame hd f n header)
  · obtain ⟨-, -, -, -, hapart⟩ := hd.distance hkind
    exact hapart.disjoint hz
  · obtain ⟨-, -, -, hapart, hcount, hpre⟩ := hd.width hkind
    exact ⟨hcount.trans hmin, hpre, fun m hz => hapart.disjoint hz⟩

theorem idealCapture_length (q : Rounding) (g : Nat) (plan : List Nat) :
    (idealCapture q g plan).length = plan.length + 1 := by
  simp [idealCapture]

/-- The number of elements of a frame's plan (R404). -/
def planLength (d : FrameDescriptor) (n : Nat) (header : Bool) : Nat :=
  pairLen (d.preMark != 0) + (pairLen (header && d.hdrMark != 0)
    + match d.kind with
      | .distance => 2 * n + 1
      | .width => 2 * n - 1)

theorem encFrame_length_eq (d : FrameDescriptor) (f n : Nat) (header : Bool) :
    (encFrame d f n header).length = planLength d n header := by
  rw [encFrame_length, planLength]
  cases hkind : d.kind with
  | distance => simp [frameBody_of_distance hkind, distanceCells_length]
  | width => simp [frameBody_of_width hkind, widthCells_length]

-- What each decoder reports (R406)

theorem decValueFrame_idealCapture (hd : FrameFits d) (hmin : d.nmin ≤ n) (hmax : n ≤ d.nmax) (hf : f < 2 ^ n)
    (q : Rounding) (g : Nat) :
    decValueFrame defaultConfig d (idealCapture q g (encFrame d f n true)) = .ok ⟨f, 0, n⟩ := by
  rw [decValueFrame, decFrame_idealCapture hd hmin hmax hf]
  rfl

theorem splitFrame_compose {w : Nat} (hn : n = d.addrBits + w) (hv : v < 2 ^ w) :
    splitFrame d (a * 2 ^ w + v) n = ⟨v, a, w⟩ := by
  subst hn
  have hw : 0 < 2 ^ w := Nat.two_pow_pos w
  simp only [splitFrame, Nat.add_sub_cancel_left, Nat.add_comm (a * 2 ^ w), Nat.add_mul_mod_self_right,
    Nat.mod_eq_of_lt hv, Nat.add_mul_div_right _ _ hw, Nat.div_eq_of_lt hv, Nat.zero_add]

theorem decPanasonic_idealCapture (q : Rounding) (g : Nat) (tag : Byte) (ha : a < 2 ^ 16) (hv : v < 2 ^ 32) :
    decPanasonic defaultConfig (idealCapture q g (encFrame defaultConfig.table.panasonic (a * 2 ^ 32 + v) 48 true)) tag
      = .ok ⟨v, a, 32⟩ := by
  have hfits : FrameFits defaultConfig.table.panasonic := defaultTable_fits _ (by simp)
  have hframe := decFrame_idealCapture hfits (n := 48) (f := a * 2 ^ 32 + v) (by decide) (by decide) (by omega) q g true
  rw [decPanasonic]
  exact (congrArg _ hframe).trans (congrArg Except.ok (splitFrame_compose rfl hv))

theorem decDenon_idealCapture (q : Rounding) (g : Nat) (tag : Byte) (ha : a < 2 ^ 4) (hv : v < 2 ^ 10) :
    decDenon defaultConfig (idealCapture q g (encFrame defaultConfig.table.denon (a * 2 ^ 10 + v) 14 true)) tag
      = .ok ⟨v, a, 10⟩ := by
  have hfits : FrameFits defaultConfig.table.denon := defaultTable_fits _ (by simp)
  have hframe := decFrame_idealCapture hfits (n := 14) (f := a * 2 ^ 10 + v) (by decide) (by decide) (by omega) q g true
  rw [decDenon]
  exact (congrArg _ hframe).trans (congrArg Except.ok (splitFrame_compose rfl hv))

theorem decNec_idealCapture (q : Rounding) (g : Nat) (tag : Byte) (hv : v < 2 ^ 32) :
    decNec defaultConfig (idealCapture q g (encFrame defaultConfig.table.nec v 32 true)) tag = .ok ⟨v, 0, 32⟩ := by
  have hfits : FrameFits defaultConfig.table.nec := defaultTable_fits _ (by simp)
  have hlength : (idealCapture q g (encFrame defaultConfig.table.nec v 32 true)).length ≠ 4 := by
    rw [idealCapture_length, encFrame_length_eq]
    decide
  rw [decNec, if_neg hlength]
  exact decValueFrame_idealCapture hfits (by decide) (by decide) hv q g

theorem decJvc_idealCapture (q : Rounding) (g : Nat) (tag : Byte) (hv : v < 2 ^ 16) :
    decJvc defaultConfig (idealCapture q g (encFrame defaultConfig.table.jvc v 16 true)) tag = .ok ⟨v, 0, 16⟩ := by
  have hfits : FrameFits defaultConfig.table.jvc := defaultTable_fits _ (by simp)
  have hframe := decFrame_idealCapture hfits (n := 16) (by decide) (by decide) hv q g true
  rw [decJvc, hframe]
  rfl

theorem decFrame_of_cellCount_none {c : Config} {raw : List Nat}
    (h : (cellCount d raw.length header).toOption = none) : ∃ e, decFrame c d raw header = .error e := by
  cases hcount : cellCount d raw.length header with
  | error e => exact ⟨e, by simp [decFrame, hcount, bind, Except.bind]⟩
  | ok n => rw [hcount] at h; cases h

/-- The headerless frame is no header frame, so the second attempt of R346 reads it. -/
theorem decJvc_idealCapture_headerless (q : Rounding) (hg : g ≤ 1200) (hv : v < 2 ^ 16) :
    decJvc defaultConfig (idealCapture q g (encFrame defaultConfig.table.jvc v 16 false)) Protocol.jvc.tag
      = .ok ⟨v, 0, 16⟩ := by
  have hfits : FrameFits defaultConfig.table.jvc := defaultTable_fits _ (by simp)
  have hframe := decFrame_idealCapture hfits (n := 16) (by decide) (by decide) hv q g false
  obtain ⟨e, hheader⟩ := decFrame_of_cellCount_none (c := defaultConfig) (d := defaultConfig.table.jvc)
    (header := true) (raw := idealCapture q g (encFrame defaultConfig.table.jvc v 16 false))
    (by rw [idealCapture_length, encFrame_length_eq]; decide)
  rw [decJvc, hheader]
  exact (if_pos ⟨rfl, hg⟩).trans (by
    rw [hframe]
    rfl)

-- The AIWA word (R14, R193)

theorem revBits_lt (n v : Nat) : revBits n v < 2 ^ n := by
  induction n generalizing v with
  | zero => simp [revBits]
  | succ n ih =>
    have hrest := ih (v / 2)
    obtain hbit | hbit := Nat.mod_two_eq_zero_or_one v <;> rw [revBits, hbit, Nat.pow_succ] <;> omega

theorem testBit_revBits (n v i : Nat) :
    (revBits n v).testBit i = (decide (i < n) && v.testBit (n - 1 - i)) := by
  induction n generalizing v i with
  | zero => simp [revBits]
  | succ n ih =>
    obtain ⟨htop, hbelow⟩ := testBit_put n (v % 2) (revBits n (v / 2)) (Nat.mod_lt v two_pos) (revBits_lt n _)
    rcases Nat.lt_trichotomy i n with hi | rfl | hi
    · have hsub : n - i = n - 1 - i + 1 := by omega
      simp [revBits, hbelow i hi, ih, hi, Nat.lt_succ_of_lt hi, hsub, Nat.testBit_succ]
    · simp [revBits, htop, Nat.testBit_zero]
    · have hlt := (revBits_lt (n + 1) v).trans_le (Nat.pow_le_pow_right two_pos hi)
      simp [Nat.testBit_lt_two_pow hlt, Nat.not_lt.mpr (Nat.succ_le_of_lt hi)]

/-- Reversing the bits of an `n`-bit value twice gives it back. -/
theorem revBits_revBits (hv : v < 2 ^ n) : revBits n (revBits n v) = v := by
  apply Nat.eq_of_testBit_eq
  intro i
  by_cases hi : i < n
  · have hback : n - 1 - (n - 1 - i) = i := by omega
    simp [testBit_revBits, hi, hback, show n - 1 - i < n by omega]
  · have hlt := hv.trans_le (Nat.pow_le_pow_right two_pos (Nat.not_lt.mp hi))
    simp [testBit_revBits, hi, Nat.testBit_lt_two_pow hlt]

theorem decAiwa_idealCapture (q : Rounding) (g : Nat) (tag : Byte) (hv : v < 2 ^ 15) :
    decAiwa defaultConfig (idealCapture q g (encFrame defaultConfig.table.aiwa (aiwaWord defaultConfig v) 42 true)) tag
      = .ok ⟨v, 0, 15⟩ := by
  have hfits : FrameFits defaultConfig.table.aiwa := defaultTable_fits _ (by simp)
  have hdata := revBits_lt 15 v
  have hpre : defaultConfig.aiwaPre < 2 ^ 26 := by decide
  obtain ⟨hword, hhigh, hlast, hmiddle⟩ : aiwaWord defaultConfig v < 2 ^ 42
      ∧ aiwaWord defaultConfig v / 2 ^ 16 = defaultConfig.aiwaPre ∧ aiwaWord defaultConfig v % 2 = 0
      ∧ aiwaWord defaultConfig v / 2 % 2 ^ 15 = revBits 15 v := by
    simp only [aiwaWord]
    omega
  have hframe := decFrame_idealCapture hfits (n := 42) (by decide) (by decide) hword q g true
  rw [decAiwa, hframe]
  exact (if_pos ⟨hhigh, hlast⟩).trans (by rw [hmiddle, revBits_revBits hv])

end Sys2Proof.Machine
end

section
/-! PROOFS. The ideal capture of a biphase frame under the default parameters (R195, R381, R383, R385, R406): merging
makes elements of at most three half cells, each rounded length is read as that many half cells, and so the cell loop
takes the data bits back one after the other. -/

namespace Sys2Proof.Machine

variable {c : Config} {q : Rounding} {raw : List Nat} {hs : List (Level × Nat)} {l one : Level} {t u n v : Nat}
  {doubled : Nat → Bool}

-- How long the merged elements are (R405)

/-- A half cell in front makes an element of at most `b` where its sum with the first element is at most `b`. -/
theorem mergeHalves_cons_le {b : Nat} (hu : u ≤ b) (hall : ∀ h ∈ mergeHalves hs, h.2 ≤ b)
    (hfirst : ∀ h ∈ (mergeHalves hs).head?, u + h.2 ≤ b) : ∀ h ∈ mergeHalves ((l, u) :: hs), h.2 ≤ b := by
  obtain ⟨-, heq⟩ | ⟨u', rest, hrest, heq⟩ := mergeHalves_cons l u hs
  · rw [heq]
    exact List.forall_mem_cons.mpr ⟨hu, hall⟩
  · rw [hrest] at hall hfirst
    rw [heq]
    exact List.forall_mem_cons.mpr ⟨hfirst _ rfl, (List.forall_mem_cons.mp hall).2⟩

/-- The two halves of a bit do not merge: the first stays an element of its own. -/
theorem mergeHalves_bitHalves (one : Level) (bit : Bool) (w : Nat) (hs : List (Level × Nat)) :
    ∃ l l', mergeHalves (bitHalves one bit w ++ hs) = (l, w) :: mergeHalves ((l', w) :: hs) := by
  unfold bitHalves
  split
  · exact ⟨_, _, mergeHalves_cons_of_ne (by simp)⟩
  · exact ⟨_, _, mergeHalves_cons_of_ne (by simp)⟩

theorem halfWidth_le (t : Nat) (dbl : Bool) : halfWidth t dbl ≤ 2 * t := by
  cases dbl
  · exact Nat.le_mul_of_pos_left t two_pos
  · exact le_rfl

/-- Of two neighbouring bits at most one is doubled, so a half of each is three half cells at most. -/
theorem halfWidth_add_le {dbl dbl' : Bool} (h : ¬ (dbl = true ∧ dbl' = true)) :
    halfWidth t dbl + halfWidth t dbl' ≤ 3 * t := by
  cases dbl <;> cases dbl' <;> simp [halfWidth] at h ⊢ <;> omega

/-- The elements of the data bits: three half cells at most, and the first is the first half of the first bit. -/
theorem mergeHalves_biphaseHalves (hdoubled : ∀ i, ¬ (doubled (i + 1) = true ∧ doubled i = true)) (v n : Nat) :
    (∀ h ∈ mergeHalves (biphaseHalves t one doubled v n), h.2 ≤ 3 * t)
      ∧ ∀ h ∈ (mergeHalves (biphaseHalves t one doubled v n)).head?, h.2 = halfWidth t (doubled (n - 1)) := by
  induction n with
  | zero => simp [biphaseHalves, mergeHalves]
  | succ n ih =>
    obtain ⟨hall, hfirst⟩ := ih
    obtain ⟨l, l', heq⟩ :=
      mergeHalves_bitHalves one (v.testBit n) (halfWidth t (doubled n)) (biphaseHalves t one doubled v n)
    have hwidth := halfWidth_le t (doubled n)
    rw [biphaseHalves_succ, heq]
    refine ⟨List.forall_mem_cons.mpr ⟨show halfWidth t (doubled n) ≤ 3 * t by omega, ?_⟩, by simp⟩
    refine mergeHalves_cons_le (by omega) hall fun h hh => ?_
    cases n with
    | zero => simp [biphaseHalves, mergeHalves] at hh
    | succ n =>
      rw [hfirst h hh]
      exact halfWidth_add_le (hdoubled n)

theorem length_mergeHalves_le_cons (l : Level) (u : Nat) (hs : List (Level × Nat)) :
    (mergeHalves hs).length ≤ (mergeHalves ((l, u) :: hs)).length := by
  obtain ⟨-, heq⟩ | ⟨u', rest, hrest, heq⟩ := mergeHalves_cons l u hs
  · rw [heq]
    exact Nat.le_succ _
  · rw [hrest, heq]
    exact le_rfl

/-- Each bit adds an element at least, and the last one two. -/
theorem le_length_mergeHalves_biphaseHalves (t : Nat) (one : Level) (doubled : Nat → Bool) (v : Nat) (hn : 1 ≤ n) :
    n + 1 ≤ (mergeHalves (biphaseHalves t one doubled v n)).length := by
  induction n, hn using Nat.le_induction with
  | base =>
    obtain ⟨l, l', heq⟩ := mergeHalves_bitHalves one (v.testBit 0) (halfWidth t (doubled 0)) []
    change 2 ≤ (mergeHalves (bitHalves one (v.testBit 0) (halfWidth t (doubled 0)) ++ [])).length
    rw [heq]
    exact le_rfl
  | succ n _ ih =>
    obtain ⟨l, l', heq⟩ :=
      mergeHalves_bitHalves one (v.testBit n) (halfWidth t (doubled n)) (biphaseHalves t one doubled v n)
    rw [biphaseHalves_succ, heq]
    exact Nat.succ_le_succ (ih.trans (length_mergeHalves_le_cons l' _ _))

theorem length_le_dropTrailingSpace (hs : List (Level × Nat)) : hs.length ≤ (dropTrailingSpace hs).length + 1 := by
  induction hs with
  | nil => exact Nat.zero_le _
  | cons h hs ih =>
    cases hs with
    | nil => exact Nat.le_add_left 1 _
    | cons h' hs =>
      have hdrop := dropTrailingSpace_append (ms := [h]) (List.cons_ne_nil h' hs)
      rw [List.singleton_append] at hdrop
      rw [hdrop]
      exact Nat.succ_le_succ ih

-- Reading the entries (R381)

/-- The ideal capture of merged half cells hands out their levels, where each rounding of 1 to 3 half cells is read as
that many. -/
theorem reads_of_merge {o : Nat} (ht : 1 ≤ t)
    (hfit : ∀ l n, 1 ≤ n → n ≤ 3 → halfCells c l (q.ticks (n * t)) t = some n)
    (hfirst : firstLevel hs = some .mark) (hlevel : entryLevel o = .mark) (hwhole : ∀ h ∈ hs, Whole t h.2)
    (hbound : ∀ h ∈ mergeHalves hs, h.2 ≤ 3 * t) (hraw : raw.drop o = (merge hs).map q.ticks) :
    Reads c raw t { o := o, used := 0 } (levelsOf t hs) := by
  have hlevels := (levelsOf_mergeHalves t hs fun h hh => (hwhole h hh).2).1
  have hmerged := mergeHalves_forall (fun _ _ => Whole.add) hwhole
  rw [← hlevels]
  refine reads_of_merged (mergeHalves hs) o q.ticks hfit (fun h hh => ?_) ht (mergeHalves_alternating hs) ?_ ?_
  · obtain ⟨hne, n, hn⟩ := hmerged h hh
    have hle := hbound h hh
    rw [hn, Nat.mul_comm t n] at hle
    have hpos : n ≠ 0 := fun h0 => hne (by rw [hn, h0, Nat.mul_zero])
    exact ⟨n, Nat.one_le_iff_ne_zero.mpr hpos, Nat.le_of_mul_le_mul_right hle ht, by rw [hn, Nat.mul_comm]⟩
  · rw [hlevel]
    exact (alternatingFrom_mergeHalves hfirst).2
  · rw [hraw, merge_of_first_mark hfirst, List.map_map]
    rfl

/-- The levels of the data bits `n-1 .. 0` of `v` (R195). -/
def dataLevels (one : Level) (doubled : Nat → Bool) (v n : Nat) : List Level :=
  (List.range n).reverse.flatMap fun i => bitLevels one (v.testBit i) (doubled i)

theorem dataLevels_succ (one : Level) (doubled : Nat → Bool) (v n : Nat) :
    dataLevels one doubled v (n + 1) = bitLevels one (v.testBit n) (doubled n) ++ dataLevels one doubled v n := by
  simp [dataLevels, List.range_succ]

/-- The cell loop takes back the bits it is handed, the cell of index `m` doubled where the decoder expects it. -/
theorem readBiphase_dataLevels {d : BiphaseDescriptor} {dbl : Option Nat} {fuel a m : Nat} {k : Cursor}
    (hdoubled : ∀ i < n, doubled i = (dbl == some (m + (n - 1 - i))))
    (h : Reads c raw d.t1 k (dataLevels one doubled v n)) (hfuel : n < fuel) (hmax : m + n ≤ d.nmax) :
    readBiphase c d one dbl raw fuel k a m = .ok (a * 2 ^ n + v % 2 ^ n, m + n) := by
  induction n generalizing k a m fuel with
  | zero =>
    obtain ⟨fuel, rfl⟩ := Nat.exists_eq_add_of_le' hfuel
    rw [Reads.finish h]
    simp [Nat.mod_one]
  | succ n ih =>
    obtain ⟨fuel, rfl⟩ := Nat.exists_eq_add_of_le' (Nat.zero_lt_of_lt hfuel)
    have htop : doubled n = (dbl == some m) := by simpa using hdoubled n (Nat.lt_succ_self n)
    have hbelow : ∀ i < n, doubled i = (dbl == some (m + 1 + (n - 1 - i))) := fun i hi => by
      rw [hdoubled i (Nat.lt_succ_of_lt hi)]
      congr 2
      omega
    rw [dataLevels_succ, htop] at h
    obtain ⟨k', hpass, hrest⟩ := Reads.pass (fuel := fuel) (v := a) h (by omega)
    rw [hpass, ih hbelow hrest (by omega) (by omega), mod_succ]
    congr 2
    · cases v.testBit n <;> simp <;> ring
    · ring

theorem biphaseResult_dataLevels {d : BiphaseDescriptor} {dbl : Option Nat} {k : Cursor}
    (hdoubled : ∀ i < n, doubled i = (dbl == some (n - 1 - i)))
    (h : Reads c raw d.t1 k (dataLevels one doubled v n)) (hmin : d.nmin ≤ n) (hmax : n ≤ d.nmax) (hv : v < 2 ^ n) :
    biphaseResult c d one dbl raw k = .ok ⟨v, 0, n⟩ := by
  have hloop := readBiphase_dataLevels (a := 0) (m := 0) (by simpa using hdoubled) h (Nat.lt_succ_of_le hmax)
    (by omega)
  rw [Nat.zero_mul, Nat.zero_add, Nat.zero_add, Nat.mod_eq_of_lt hv] at hloop
  simp [biphaseResult, hloop, hmin]

/-- The last half cell of a start sequence joins at most one half of the first bit. -/
theorem mergeHalves_start_le (hdoubled : ∀ i, ¬ (doubled (i + 1) = true ∧ doubled i = true)) (l : Level)
    (v n : Nat) : ∀ h ∈ mergeHalves ((l, t) :: biphaseHalves t one doubled v n), h.2 ≤ 3 * t := by
  obtain ⟨hall, hfirst⟩ := mergeHalves_biphaseHalves (one := one) hdoubled v n
  refine mergeHalves_cons_le (by omega) hall fun h hh => ?_
  have hwidth := halfWidth_le t (doubled (n - 1))
  rw [hfirst h hh]
  omega

-- RC5 (R383, R420)

/-- The half cells of an RC5 frame. -/
def rc5Frame (t v n : Nat) : List (Level × Nat) :=
  (Level.mark, t) :: (Level.space, t) :: (Level.mark, t) :: biphaseHalves t .space (fun _ => false) v n

theorem encRc5_eq (d : BiphaseDescriptor) (v n : Nat) : encRc5 d v n = merge (rc5Frame d.t1 v n) := by
  rw [encRc5, rc5Halves_eq]
  rfl

theorem mergeHalves_rc5Frame (t v n : Nat) :
    mergeHalves (rc5Frame t v n) = (Level.mark, t) :: (Level.space, t)
      :: mergeHalves ((Level.mark, t) :: biphaseHalves t .space (fun _ => false) v n) := by
  rw [rc5Frame, mergeHalves_cons_of_ne (by simp), mergeHalves_cons_of_ne (by simp)]

theorem rc5Frame_le (t v n : Nat) : ∀ h ∈ mergeHalves (rc5Frame t v n), h.2 ≤ 3 * t := by
  have hbits := mergeHalves_start_le (t := t) (one := .space) (doubled := fun _ => false) (by simp) .mark v n
  rw [mergeHalves_rc5Frame]
  exact List.forall_mem_cons.mpr ⟨Nat.le_mul_of_pos_left t three_pos,
    List.forall_mem_cons.mpr ⟨Nat.le_mul_of_pos_left t three_pos, hbits⟩⟩

theorem whole_rc5Frame (ht : 1 ≤ t) (v n : Nat) : ∀ h ∈ rc5Frame t v n, Whole t h.2 := by
  have hbits := whole_biphaseHalves ht .space (fun _ => false) v n
  have hone : Whole t t := whole_halfWidth ht false
  simpa [rc5Frame, hone] using hbits

theorem levelsOf_rc5Frame (ht : 1 ≤ t) (v n : Nat) :
    levelsOf t (rc5Frame t v n) = [.mark, .space, .mark] ++ dataLevels .space (fun _ => false) v n := by
  rw [dataLevels, ← levelsOf_biphaseHalves ht]
  simp [rc5Frame, levelsOf, Nat.div_self ht]

/-- An RC5 plan has more elements than its frame has bits (R383 looks at no shorter capture than 13 entries). -/
theorem le_length_encRc5 (d : BiphaseDescriptor) (v : Nat) (hn : 1 ≤ n) : n + 2 ≤ (encRc5 d v n).length := by
  have hbits := (le_length_mergeHalves_biphaseHalves d.t1 .space (fun _ => false) v hn).trans
    (length_mergeHalves_le_cons .mark d.t1 _)
  have hdrop := length_le_dropTrailingSpace (mergeHalves (rc5Frame d.t1 v n))
  have hlength := congrArg List.length (mergeHalves_rc5Frame d.t1 v n)
  rw [List.length_cons, List.length_cons] at hlength
  rw [encRc5_eq, merge_of_first_mark rfl, List.length_map]
  omega

theorem decRc5_of_reads {tag : Byte} (hlength : c.table.rc5.minRawlen ≤ raw.length)
    (h : Reads c raw c.table.rc5.t1 ⟨1, 0⟩ ([.mark, .space, .mark] ++ dataLevels .space (fun _ => false) v n))
    (hmin : c.table.rc5.nmin ≤ n) (hmax : n ≤ c.table.rc5.nmax) (hv : v < 2 ^ n) :
    decRc5 c raw tag = .ok ⟨v, 0, n⟩ := by
  obtain ⟨k, hstart, hdata⟩ := h.expect
  have hresult := biphaseResult_dataLevels (dbl := none) (by simp) hdata hmin hmax hv
  simp only [decRc5, if_neg (Nat.not_lt.mpr hlength), hstart, hresult]

theorem halfCells_ticks_rc5 (q : Rounding) (l : Level) (n : Nat) (hn : 1 ≤ n) (hn3 : n ≤ 3) :
    halfCells defaultConfig l (q.ticks (n * 889)) 889 = some n := by
  obtain rfl | rfl | rfl : n = 1 ∨ n = 2 ∨ n = 3 := by omega
  all_goals cases q <;> cases l <;> decide

/-- RC5 gives back what was sent (R406). -/
theorem decRc5_idealCapture (q : Rounding) (g : Nat) (tag : Byte) (hn : 10 ≤ n) (hn32 : n ≤ 32) (hv : v < 2 ^ n) :
    decRc5 defaultConfig (idealCapture q g (encRc5 defaultConfig.table.rc5 v n)) tag = .ok ⟨v, 0, n⟩ := by
  have hplan := le_length_encRc5 defaultConfig.table.rc5 v (show 1 ≤ n by omega)
  have hlength : 13 ≤ (idealCapture q g (encRc5 defaultConfig.table.rc5 v n)).length := by
    rw [idealCapture_length]
    omega
  refine decRc5_of_reads hlength ?_ (show 1 ≤ n by omega) hn32 hv
  rw [encRc5_eq, ← levelsOf_rc5Frame (t := 889) (by decide)]
  exact reads_of_merge (by decide) (halfCells_ticks_rc5 q) rfl rfl (whole_rc5Frame (by decide) v n) (rc5Frame_le _ v n)
    rfl

-- RC6 (R385, R421)

/-- The half cells of an RC6 frame after its header pair. -/
def rc6Frame (t v n : Nat) : List (Level × Nat) :=
  (Level.mark, t) :: (Level.space, t) :: biphaseHalves t .mark (fun i => n - i == 4) v n

theorem encRc6_eq (d : BiphaseDescriptor) (v n : Nat) :
    encRc6 d v n = d.hdrMark :: d.hdrSpace :: merge (rc6Frame d.t1 v n) := by
  rw [encRc6, rc6Halves_eq]
  exact merge_header rfl d.hdrMark d.hdrSpace

theorem rc6Frame_le (t v n : Nat) : ∀ h ∈ mergeHalves (rc6Frame t v n), h.2 ≤ 3 * t := by
  have hbits := mergeHalves_start_le (t := t) (one := .mark) (doubled := fun i => n - i == 4)
    (by simp only [beq_iff_eq]; omega) .space v n
  rw [rc6Frame, mergeHalves_cons_of_ne (by simp)]
  exact List.forall_mem_cons.mpr ⟨Nat.le_mul_of_pos_left t three_pos, hbits⟩

theorem whole_rc6Frame (ht : 1 ≤ t) (v n : Nat) : ∀ h ∈ rc6Frame t v n, Whole t h.2 := by
  have hbits := whole_biphaseHalves ht .mark (fun i => n - i == 4) v n
  have hone : Whole t t := whole_halfWidth ht false
  exact List.forall_mem_cons.mpr ⟨hone, List.forall_mem_cons.mpr ⟨hone, hbits⟩⟩

theorem levelsOf_rc6Frame (ht : 1 ≤ t) (v n : Nat) :
    levelsOf t (rc6Frame t v n) = [.mark, .space] ++ dataLevels .mark (fun i => n - i == 4) v n := by
  rw [dataLevels, ← levelsOf_biphaseHalves ht]
  simp [rc6Frame, levelsOf, Nat.div_self ht]

theorem decRc6_of_reads {tag : Byte} (hmark : matchMark c (raw.getD 1 0) c.table.rc6.hdrMark = true)
    (hspace : matchSpace c (raw.getD 2 0) c.table.rc6.hdrSpace = true) (hlength : c.table.rc6.minRawlen ≤ raw.length)
    (h : Reads c raw c.table.rc6.t1 ⟨3, 0⟩ ([.mark, .space] ++ dataLevels .mark (fun i => n - i == 4) v n))
    (hmin : c.table.rc6.nmin ≤ n) (hmax : n ≤ c.table.rc6.nmax) (hv : v < 2 ^ n) :
    decRc6 c raw tag = .ok ⟨v, 0, n⟩ := by
  obtain ⟨k, hstart, hdata⟩ := h.expect
  have hdoubled : ∀ i < n, (n - i == 4) = (some 3 == some (n - 1 - i)) := fun i hi => by
    rw [Bool.eq_iff_iff, beq_iff_eq, beq_iff_eq, Option.some_inj]
    omega
  have hresult := biphaseResult_dataLevels hdoubled hdata hmin hmax hv
  simp only [decRc6, if_neg (Nat.not_lt.mpr hlength), hmark, hspace, Bool.and_self, if_true, hstart, hresult]

theorem halfCells_ticks_rc6 (q : Rounding) (l : Level) (n : Nat) (hn : 1 ≤ n) (hn3 : n ≤ 3) :
    halfCells defaultConfig l (q.ticks (n * 444)) 444 = some n := by
  obtain rfl | rfl | rfl : n = 1 ∨ n = 2 ∨ n = 3 := by omega
  all_goals cases q <;> cases l <;> decide

/-- RC6 gives back what was sent (R406). -/
theorem decRc6_idealCapture (q : Rounding) (g : Nat) (tag : Byte) (hn : 1 ≤ n) (hn32 : n ≤ 32) (hv : v < 2 ^ n) :
    decRc6 defaultConfig (idealCapture q g (encRc6 defaultConfig.table.rc6 v n)) tag = .ok ⟨v, 0, n⟩ := by
  have hreads : Reads defaultConfig (idealCapture q g (encRc6 defaultConfig.table.rc6 v n)) 444 ⟨3, 0⟩
      ([.mark, .space] ++ dataLevels .mark (fun i => n - i == 4) v n) := by
    rw [encRc6_eq, ← levelsOf_rc6Frame (t := 444) (by decide)]
    exact reads_of_merge (by decide) (halfCells_ticks_rc6 q) rfl rfl (whole_rc6Frame (by decide) v n)
      (rc6Frame_le _ v n) rfl
  refine decRc6_of_reads ?_ ?_ (hreads.lt_length (by simp)) hreads hn hn32 hv
  · rw [encRc6_eq]
    exact matchMark_ticks q (by decide)
  · rw [encRc6_eq]
    exact matchSpace_ticks q (by decide)

end Sys2Proof.Machine
end

section
/-! PROOFS. RX_DECODE names the sender (R303, R305, R406): under the default parameters every decoder that DECODE_ORDER
tries before the sender's refuses the capture, most by its length or its first mark. -/

namespace Sys2Proof.Machine

variable {c : Config} {q : Rounding} {d : FrameDescriptor} {g m f n v a t1 : Nat} {es plan : List Nat} {tag : Byte}
  {p : Protocol} {header : Bool}

-- Decoders that refuse a capture by its length or its first mark (R332, R333, R383, R385)

theorem decFrame_of_header_mismatch (hpre : d.preMark = 0) (hhdr : d.hdrMark ≠ 0)
    (hm : matchMark c m d.hdrMark = false) : ∃ e, decFrame c d (g :: m :: es) true = .error e := by
  cases hcount : cellCount d (g :: m :: es).length true with
  | error e => exact decFrame_of_cellCount_none (by rw [hcount]; rfl)
  | ok n =>
    refine ⟨.noMatchHeader, ?_⟩
    rw [decFrame, hcount]
    cases es <;> simp [readPair, hpre, hhdr, hm, bind, Except.bind]

/-- Whether the frame reader refuses a capture of `len` entries because of that length, or because of its first mark
`m`. -/
def frameRefused (c : Config) (d : FrameDescriptor) (len m : Nat) (header : Bool) : Bool :=
  (cellCount d len header).toOption.isNone
    || (d.preMark == 0 && header && d.hdrMark != 0 && !matchMark c m d.hdrMark)

theorem decFrame_of_refused (h : frameRefused c d (es.length + 2) m header = true) :
    ∃ e, decFrame c d (g :: m :: es) header = .error e := by
  simp only [frameRefused, Bool.or_eq_true, Option.isNone_iff_eq_none, Bool.and_eq_true, beq_iff_eq, bne_iff_ne,
    Bool.not_eq_true'] at h
  rcases h with hlength | ⟨⟨⟨hpre, rfl⟩, hhdr⟩, hm⟩
  · exact decFrame_of_cellCount_none hlength
  · exact decFrame_of_header_mismatch hpre hhdr hm

theorem decValueFrame_of_refused (h : frameRefused c d (es.length + 2) m true = true) :
    (decValueFrame c d (g :: m :: es)).toOption = none := by
  obtain ⟨e, he⟩ := decFrame_of_refused (g := g) h
  rw [decValueFrame, he]
  rfl

/-- What the level cursor hands out, by the entry it stands on (R381). -/
theorem getLevel_eq (c : Config) (raw : List Nat) (t1 : Nat) (k : Cursor) :
    getLevel c raw t1 k =
      match raw[k.o]? with
      | none => (some .space, k)
      | some m =>
        match halfCells c (entryLevel k.o) m t1 with
        | none => (none, k)
        | some avail =>
          (some (entryLevel k.o), if avail ≤ k.used + 1 then ⟨k.o + 1, 0⟩ else ⟨k.o, k.used + 1⟩) := by
  rw [getLevel]
  cases hm : raw[k.o]? with
  | none => rw [if_pos (List.getElem?_eq_none_iff.mp hm)]
  | some m =>
    obtain ⟨hlt, -⟩ := List.getElem?_eq_some_iff.mp hm
    rw [if_neg (Nat.not_le.mpr hlt), List.getD_eq_getElem?_getD, hm, Option.getD_some]
    dsimp only
    cases halfCells c (entryLevel k.o) m t1 with
    | none => rfl
    | some avail => exact (apply_ite (Prod.mk _) _ _ _).symm

theorem halfCells_of_not_single (hm : matchMark c m t1 = false) :
    halfCells c .mark m t1 = none ∨ ∃ avail, 2 ≤ avail ∧ halfCells c .mark m t1 = some avail := by
  have hlonger : halfCells c .mark m t1
      = if matchMark c m (2 * t1) then some 2 else if matchMark c m (3 * t1) then some 3 else none :=
    if_neg (by simp [matchLevel, hm])
  rw [hlonger]
  by_cases htwo : matchMark c m (2 * t1) = true
  · exact .inr ⟨2, le_rfl, if_pos htwo⟩
  · rw [if_neg htwo]
    by_cases hthree : matchMark c m (3 * t1) = true
    · exact .inr ⟨3, by decide, if_pos hthree⟩
    · exact .inl (if_neg hthree)

/-- A start sequence MARK, SPACE is refused where the first mark is no half cell, or longer than one. -/
theorem expectLevels_of_first_mark (hm : matchMark c m t1 = false) (ls : List Level) :
    expectLevels c (g :: m :: es) t1 (.mark :: .space :: ls) ⟨1, 0⟩ = .error .noMatchHeader := by
  have hlevel : entryLevel 1 = .mark := rfl
  rcases halfCells_of_not_single hm with hnone | ⟨avail, htwo, hsome⟩
  · simp [expectLevels, getLevel_eq, hlevel, hnone]
  · simp [expectLevels, getLevel_eq, hlevel, hsome, show ¬ avail ≤ 1 by omega]

theorem decRc5_of_refused (hm : matchMark c m c.table.rc5.t1 = false) :
    (decRc5 c (g :: m :: es) tag).toOption = none := by
  simp only [decRc5, expectLevels_of_first_mark hm]
  split <;> rfl

theorem decRc6_of_refused (hm : matchMark c m c.table.rc6.hdrMark = false) :
    (decRc6 c (g :: m :: es) tag).toOption = none := by
  simp only [decRc6, List.getD_cons_succ, List.getD_cons_zero, hm, Bool.false_and, Bool.false_eq_true, if_false]
  split <;> rfl

theorem decNec_of_refused (hlength : (g :: m :: es).length ≠ 4)
    (h : frameRefused c c.table.nec (es.length + 2) m true = true) :
    (decNec c (g :: m :: es) tag).toOption = none := by
  rw [decNec, if_neg hlength]
  exact decValueFrame_of_refused h

theorem decJvc_of_refused (h : frameRefused c c.table.jvc (es.length + 2) m true = true)
    (h' : frameRefused c c.table.jvc (es.length + 2) m false = true) :
    (decJvc c (g :: m :: es) tag).toOption = none := by
  obtain ⟨e, he⟩ := decFrame_of_refused (g := g) h
  obtain ⟨e', he'⟩ := decFrame_of_refused (g := g) h'
  simp only [decJvc, he, he']
  split <;> rfl

/-- Whether the decoder of a protocol refuses a capture of `len` entries with the first mark `m` for one of these
reasons. -/
def refusesEarly (c : Config) (len m : Nat) : Protocol → Bool
  | .rc5 => !matchMark c m c.table.rc5.t1
  | .rc6 => !matchMark c m c.table.rc6.hdrMark
  | .nec => len != 4 && frameRefused c c.table.nec len m true
  | .sony => frameRefused c c.table.sony len m true
  | .panasonic => frameRefused c c.table.panasonic len m true
  | .jvc => frameRefused c c.table.jvc len m true && frameRefused c c.table.jvc len m false
  | .samsung => frameRefused c c.table.samsung len m true
  | .whynter => frameRefused c c.table.whynter len m true
  | .aiwa => frameRefused c c.table.aiwa len m true
  | .lg => frameRefused c c.table.lg len m true
  | .sanyo => frameRefused c c.table.sanyo len m true
  | .mitsubishi => frameRefused c c.table.mitsubishi len m true
  | .denon => frameRefused c c.table.denon len m true
  | .dish => true
  | .sharp => true

theorem runDecoder_of_refused (h : refusesEarly c (es.length + 2) m p = true) :
    runDecoder c (g :: m :: es) tag p = none := by
  cases p
  case rc5 => exact decRc5_of_refused (by simpa [refusesEarly] using h)
  case rc6 => exact decRc6_of_refused (by simpa [refusesEarly] using h)
  case nec =>
    obtain ⟨hlength, h⟩ := Bool.and_eq_true_iff.mp h
    exact decNec_of_refused (bne_iff_ne.mp hlength) h
  case jvc =>
    obtain ⟨h, h'⟩ := Bool.and_eq_true_iff.mp h
    exact decJvc_of_refused h h'
  case panasonic | denon | aiwa =>
    obtain ⟨e, he⟩ := decFrame_of_refused (g := g) h
    simp only [runDecoder, decPanasonic, decDenon, decAiwa, he]
    rfl
  case dish | sharp => rfl
  all_goals exact decValueFrame_of_refused h

-- The two captures that need a closer look

theorem Rounding.ticks_mul (q : Rounding) (n : Nat) : q.ticks (n * 50) = n := by
  cases q <;> simp only [Rounding.ticks] <;> omega

/-- A WHYNTER frame starts as RC5 does, MARK, SPACE, MARK, but its third entry is three half cells long, so that the
first cell would be MARK, MARK. -/
theorem decRc5_whynter (g : Nat) (es : List Nat) (tag : Byte) :
    (decRc5 defaultConfig (g :: 15 :: 15 :: 57 :: es) tag).toOption = none := by
  have hmark : halfCells defaultConfig .mark 15 889 = some 1 := by decide
  have hspace : halfCells defaultConfig .space 15 889 = some 1 := by decide
  have hheader : halfCells defaultConfig .mark 57 889 = some 3 := by decide
  have ht : defaultConfig.table.rc5.t1 = 889 := rfl
  simp only [decRc5]
  split
  · rfl
  · simp [ht, hmark, hspace, hheader, expectLevels, getLevel_eq, entryLevel, biphaseResult, readBiphase, halfOf,
      cellBit, Except.toOption, Nat.add_assoc]

/-- The first entries of a WHYNTER capture: the pre pair and the header mark. -/
theorem idealCapture_whynter (q : Rounding) (g f n : Nat) :
    ∃ es, idealCapture q g (encFrame defaultConfig.table.whynter f n true) = g :: 15 :: 15 :: 57 :: es := by
  cases q <;> exact ⟨_, rfl⟩

/-- The mark of a SONY cell, in ticks. -/
def sonyMark (bit : Bool) : Nat := if bit then 24 else 12

/-- The first entries of a SONY capture: the header, and at least four cells. -/
theorem idealCapture_sony (q : Rounding) (g f : Nat) (hn : 12 ≤ n) :
    ∃ b0 b1 b2 b3 es, idealCapture q g (encFrame defaultConfig.table.sony f n true)
      = g :: 48 :: 12 :: sonyMark b0 :: 12 :: sonyMark b1 :: 12 :: sonyMark b2 :: 12 :: sonyMark b3 :: 12 :: es := by
  obtain ⟨n, rfl⟩ := Nat.exists_eq_add_of_le' (show 5 ≤ n by omega)
  have hspace : q.ticks 600 = 12 := q.ticks_mul 12
  have hheader : q.ticks 2400 = 48 := q.ticks_mul 48
  have hmark : ∀ b : Bool, q.ticks (if b then 1200 else 600) = sonyMark b := fun b => by
    cases b
    · exact q.ticks_mul 12
    · exact q.ticks_mul 24
  have hplan : encFrame defaultConfig.table.sony f (n + 5) true
      = 2400 :: 600 :: (if f.testBit (n + 4) then 1200 else 600) :: 600
        :: (if f.testBit (n + 3) then 1200 else 600) :: 600 :: (if f.testBit (n + 2) then 1200 else 600) :: 600
        :: (if f.testBit (n + 1) then 1200 else 600) :: 600 :: widthCells defaultConfig.table.sony f (n + 1) := rfl
  refine ⟨f.testBit (n + 4), f.testBit (n + 3), f.testBit (n + 2), f.testBit (n + 1),
    (widthCells defaultConfig.table.sony f (n + 1)).map q.ticks, ?_⟩
  simp only [hplan, idealCapture, List.map_cons, hspace, hheader, hmark]

/-- A SONY frame passes RC6's header test, and each of its spaces is two half cells. A first mark of two half cells is
no RC6 start; after one of one half cell the next three marks decide in which cell the two halves agree, or whether a
half of the fourth cell, which is doubled, is of two levels. -/
theorem decRc6_sony (g : Nat) (b0 b1 b2 b3 : Bool) (es : List Nat) (tag : Byte) :
    (decRc6 defaultConfig (g :: 48 :: 12 :: sonyMark b0 :: 12 :: sonyMark b1 :: 12 :: sonyMark b2 :: 12 :: sonyMark b3
      :: 12 :: es) tag).toOption = none := by
  have hmark (b : Bool) : halfCells defaultConfig .mark (sonyMark b) 444 = some (if b then 2 else 1) := by
    cases b <;> decide
  have hspace : halfCells defaultConfig .space 12 444 = some 2 := by decide
  have ht : defaultConfig.table.rc6.t1 = 444 := rfl
  have hnmax : defaultConfig.table.rc6.nmax = 32 := rfl
  have hhdr : (matchMark defaultConfig 48 defaultConfig.table.rc6.hdrMark
      && matchSpace defaultConfig 12 defaultConfig.table.rc6.hdrSpace) = true := by decide
  have hmin : defaultConfig.table.rc6.minRawlen = 4 := rfl
  have hlong : ¬ es.length + 11 < 4 := by omega
  match b0, b1, b2, b3 with
  | true, _, _, _ | false, false, _, _ | false, true, true, _ | false, true, false, false | false, true, false, true =>
    simp [decRc6, ht, hnmax, hmin, hlong, hhdr, hmark, hspace, expectLevels, getLevel_eq, entryLevel, biphaseResult,
      readBiphase, halfOf, cellBit, Except.toOption, Nat.add_assoc]

-- DISPATCH on the capture of a frame (R303)

/-- The decoders that DISPATCH tries before that of `p` (R11). -/
def triedBefore (p : Protocol) : List Protocol := defaultConfig.decodeOrder.takeWhile (· != p)

theorem decodeOrder_eq (hp : p.hasDecoder = true) :
    ∃ after, defaultConfig.decodeOrder = triedBefore p ++ p :: after := by
  cases p
  case dish | sharp => cases hp
  all_goals exact ⟨_, rfl⟩

theorem decEnabled_default (hp : p.hasDecoder = true) : defaultConfig.decEnabled p = true := by
  cases p
  case dish | sharp => cases hp
  all_goals rfl

theorem dispatch_of_first {raw : List Nat} {r : Decoded} (hp : p.hasDecoder = true)
    (hbefore : ∀ p' ∈ triedBefore p, runDecoder defaultConfig raw tag p' = none)
    (hr : runDecoder defaultConfig raw tag p = some r) : dispatch defaultConfig raw tag = (p.tag, r) := by
  obtain ⟨after, horder⟩ := decodeOrder_eq hp
  exact (dispatchFirstMatchWins defaultConfig raw tag).1 _ after p r horder (fun p' hp' _ => hbefore p' hp')
    (decEnabled_default hp) hr

theorem runDecoder_idealCapture_of_refused {u : Nat} (hu : plan.head? = some u)
    (h : refusesEarly c (plan.length + 1) (q.ticks u) p = true) :
    runDecoder c (idealCapture q g plan) tag p = none := by
  cases plan with
  | nil => cases hu
  | cons u' plan =>
    obtain rfl : u' = u := by simpa using hu
    exact runDecoder_of_refused (by simpa using h)

/-- A frame's own decoder gives its result where every decoder before it refuses the frame by its length or its first
mark. -/
theorem dispatch_encFrame {u : Nat} {r : Decoded} (hp : p.hasDecoder = true)
    (hu : (encFrame d f n header).head? = some u)
    (hrefused : ∀ p' ∈ triedBefore p, refusesEarly defaultConfig (planLength d n header + 1) (q.ticks u) p' = true)
    (hr : runDecoder defaultConfig (idealCapture q g (encFrame d f n header)) tag p = some r) :
    dispatch defaultConfig (idealCapture q g (encFrame d f n header)) tag = (p.tag, r) :=
  dispatch_of_first hp (fun p' hp' => runDecoder_idealCapture_of_refused hu
    (by rw [encFrame_length_eq]; exact hrefused p' hp')) hr

theorem dispatch_nec (q : Rounding) (g : Nat) (tag : Byte) (hv : v < 2 ^ 32) :
    dispatch defaultConfig (idealCapture q g (encFrame defaultConfig.table.nec v 32 true)) tag
      = (Protocol.nec.tag, ⟨v, 0, 32⟩) :=
  dispatch_encFrame (u := 9000) rfl rfl (by cases q <;> decide)
    (congrArg Except.toOption (decNec_idealCapture q g tag hv))

theorem dispatch_panasonic (q : Rounding) (g : Nat) (tag : Byte) (ha : a < 2 ^ 16) (hv : v < 2 ^ 32) :
    dispatch defaultConfig (idealCapture q g (encFrame defaultConfig.table.panasonic (a * 2 ^ 32 + v) 48 true)) tag
      = (Protocol.panasonic.tag, ⟨v, a, 32⟩) :=
  dispatch_encFrame (u := 3502) rfl rfl (by cases q <;> decide)
    (congrArg Except.toOption (decPanasonic_idealCapture q g tag ha hv))

theorem dispatch_jvc (q : Rounding) (g : Nat) (tag : Byte) (hv : v < 2 ^ 16) :
    dispatch defaultConfig (idealCapture q g (encFrame defaultConfig.table.jvc v 16 true)) tag
      = (Protocol.jvc.tag, ⟨v, 0, 16⟩) :=
  dispatch_encFrame (u := 8000) rfl rfl (by cases q <;> decide)
    (congrArg Except.toOption (decJvc_idealCapture q g tag hv))

theorem dispatch_jvc_headerless (q : Rounding) (hg : g ≤ 1200) (hv : v < 2 ^ 16) :
    dispatch defaultConfig (idealCapture q g (encFrame defaultConfig.table.jvc v 16 false)) Protocol.jvc.tag
      = (Protocol.jvc.tag, ⟨v, 0, 16⟩) :=
  dispatch_encFrame (u := 600) rfl rfl (by cases q <;> decide)
    (congrArg Except.toOption (decJvc_idealCapture_headerless q hg hv))

theorem dispatch_samsung (q : Rounding) (g : Nat) (tag : Byte) (hv : v < 2 ^ 32) :
    dispatch defaultConfig (idealCapture q g (encFrame defaultConfig.table.samsung v 32 true)) tag
      = (Protocol.samsung.tag, ⟨v, 0, 32⟩) :=
  dispatch_encFrame (u := 5000) rfl rfl (by cases q <;> decide)
    (congrArg Except.toOption (decValueFrame_idealCapture (d := defaultConfig.table.samsung)
      (defaultTable_fits _ (by simp)) (by decide) (by decide) hv q g))

theorem dispatch_lg (q : Rounding) (g : Nat) (tag : Byte) (hv : v < 2 ^ 28) :
    dispatch defaultConfig (idealCapture q g (encFrame defaultConfig.table.lg v 28 true)) tag
      = (Protocol.lg.tag, ⟨v, 0, 28⟩) :=
  dispatch_encFrame (u := 8000) rfl rfl (by cases q <;> decide)
    (congrArg Except.toOption (decValueFrame_idealCapture (d := defaultConfig.table.lg)
      (defaultTable_fits _ (by simp)) (by decide) (by decide) hv q g))

theorem dispatch_aiwa (q : Rounding) (g : Nat) (tag : Byte) (hv : v < 2 ^ 15) :
    dispatch defaultConfig (idealCapture q g (encFrame defaultConfig.table.aiwa (aiwaWord defaultConfig v) 42 true)) tag
      = (Protocol.aiwa.tag, ⟨v, 0, 15⟩) :=
  dispatch_encFrame (u := 8800) rfl rfl (by cases q <;> decide)
    (congrArg Except.toOption (decAiwa_idealCapture q g tag hv))

theorem dispatch_denon (q : Rounding) (g : Nat) (tag : Byte) (ha : a < 2 ^ 4) (hv : v < 2 ^ 10) :
    dispatch defaultConfig (idealCapture q g (encFrame defaultConfig.table.denon (a * 2 ^ 10 + v) 14 true)) tag
      = (Protocol.denon.tag, ⟨v, a, 10⟩) :=
  dispatch_encFrame (u := 300) rfl rfl (by cases q <;> decide)
    (congrArg Except.toOption (decDenon_idealCapture q g tag ha hv))

theorem dispatch_whynter (q : Rounding) (g : Nat) (tag : Byte) (hv : v < 2 ^ 32) :
    dispatch defaultConfig (idealCapture q g (encFrame defaultConfig.table.whynter v 32 true)) tag
      = (Protocol.whynter.tag, ⟨v, 0, 32⟩) := by
  refine dispatch_of_first rfl (fun p' hp' => ?_)
    (congrArg Except.toOption (decValueFrame_idealCapture (d := defaultConfig.table.whynter)
      (defaultTable_fits _ (by simp)) (by decide) (by decide) hv q g))
  have hrefused : ∀ p' ∈ triedBefore .whynter,
      p' = .rc5
        ∨ refusesEarly defaultConfig (planLength defaultConfig.table.whynter 32 true + 1) (q.ticks 750) p'
          = true := by
    cases q <;> decide
  obtain rfl | h := hrefused p' hp'
  · obtain ⟨es, heq⟩ := idealCapture_whynter q g v 32
    rw [heq]
    exact decRc5_whynter g es tag
  · exact runDecoder_idealCapture_of_refused rfl (by rw [encFrame_length_eq]; exact h)

theorem dispatch_sony (q : Rounding) (g : Nat) (tag : Byte) (hn : 12 ≤ n) (hn32 : n ≤ 32) (hv : v < 2 ^ n) :
    dispatch defaultConfig (idealCapture q g (encFrame defaultConfig.table.sony v n true)) tag
      = (Protocol.sony.tag, ⟨v, 0, n⟩) := by
  refine dispatch_of_first rfl (fun p' hp' => ?_)
    (congrArg Except.toOption (decValueFrame_idealCapture (d := defaultConfig.table.sony)
      (defaultTable_fits _ (by simp)) hn hn32 hv q g))
  have hrefused : ∀ n ≤ 32, 12 ≤ n → ∀ p' ∈ triedBefore .sony,
      p' = .rc6 ∨ refusesEarly defaultConfig (planLength defaultConfig.table.sony n true + 1) 48 p' = true := by
    decide
  obtain rfl | h := hrefused n hn32 hn p' hp'
  · obtain ⟨b0, b1, b2, b3, es, heq⟩ := idealCapture_sony q g v hn
    rw [heq]
    exact decRc6_sony g b0 b1 b2 b3 es tag
  · rw [← q.ticks_mul 48] at h
    exact runDecoder_idealCapture_of_refused rfl (by rw [encFrame_length_eq]; exact h)

theorem dispatch_rc5 (q : Rounding) (g : Nat) (tag : Byte) (hn : 10 ≤ n) (hn32 : n ≤ 32) (hv : v < 2 ^ n) :
    dispatch defaultConfig (idealCapture q g (encRc5 defaultConfig.table.rc5 v n)) tag
      = (Protocol.rc5.tag, ⟨v, 0, n⟩) :=
  dispatch_of_first rfl (fun _ hp' => absurd hp' List.not_mem_nil)
    (congrArg Except.toOption (decRc5_idealCapture q g tag hn hn32 hv))

theorem dispatch_rc6 (q : Rounding) (g : Nat) (tag : Byte) (hn : 1 ≤ n) (hn32 : n ≤ 32) (hv : v < 2 ^ n) :
    dispatch defaultConfig (idealCapture q g (encRc6 defaultConfig.table.rc6 v n)) tag
      = (Protocol.rc6.tag, ⟨v, 0, n⟩) := by
  have hrc5 : ∀ p' ∈ triedBefore .rc6, p' = .rc5 := by decide
  have hmark : refusesEarly defaultConfig ((encRc6 defaultConfig.table.rc6 v n).length + 1) (q.ticks 2666) .rc5
      = true := by
    change (!matchMark defaultConfig (q.ticks 2666) 889) = true
    cases q <;> decide
  refine dispatch_of_first rfl (fun p' hp' => ?_)
    (congrArg Except.toOption (decRc6_idealCapture q g tag hn hn32 hv))
  obtain rfl := hrc5 p' hp'
  exact runDecoder_idealCapture_of_refused (by rw [encRc6_eq]; rfl) hmark

-- The obligation

/-- Settles O48: DISPATCH names the sender of each frame, and RX_DECODE writes what DISPATCH answers. -/
theorem rxDecodeNamesTheSender : Obligations.RxDecodeNamesTheSender := by
  intro s q g v a n x hcfg hready hv ha hx hcapture
  refine rxDecodeWritesResult s x.1.tag x.2.2 hready ?_
  rw [hcapture, hcfg]
  rw [hcfg] at hx
  have hlow (w : Nat) : v % 2 ^ w < 2 ^ w := Nat.mod_lt v (Nat.two_pow_pos w)
  have haddr : a % 2 ^ 4 < 2 ^ 4 := Nat.mod_lt a (Nat.two_pow_pos 4)
  rcases hx with hx | ⟨hn, hn32, rfl⟩ | ⟨htag, hg, rfl⟩ | ⟨hn, hn32, rfl⟩ | ⟨hn, hn32, rfl⟩
  · simp only [List.mem_cons, List.not_mem_nil, or_false] at hx
    rcases hx with rfl | rfl | rfl | rfl | rfl | rfl | rfl | rfl
    · exact dispatch_nec q g _ hv
    · exact dispatch_panasonic q g _ ha hv
    · exact dispatch_jvc q g _ (hlow 16)
    · exact dispatch_samsung q g _ hv
    · exact dispatch_whynter q g _ hv
    · exact dispatch_aiwa q g _ (hlow 15)
    · exact dispatch_lg q g _ (hlow 28)
    · exact dispatch_denon q g _ haddr (hlow 10)
  · exact dispatch_sony q g _ hn hn32 (hlow n)
  · rw [htag]
    exact dispatch_jvc_headerless q hg (hlow 16)
  · exact dispatch_rc5 q g _ hn hn32 (hlow n)
  · exact dispatch_rc6 q g _ hn hn32 (hlow n)

end Sys2Proof.Machine
end

section
/-! PROOFS. What the frame reader accepts (R332 to R334): the length test solves the length equation, and a capture
that the readers accept holds the frame's plan and nothing after it. -/

namespace Sys2Proof.Machine

variable {c : Config} {d : FrameDescriptor} {raw es : List Nat} {rawlen f n : Nat} {header : Bool}

-- The length test (R332)

/-- The durations of a capture that are left for the cells: `rem` of R332. -/
def cellDurations (d : FrameDescriptor) (rawlen : Nat) (header : Bool) : Int :=
  match d.kind with
  | .distance => (rawlen : Int) - 1 - pairLen (d.preMark != 0) - pairLen (header && d.hdrMark != 0) - 1
  | .width => (rawlen : Int) - 1 - pairLen (header && d.hdrMark != 0) + 1

theorem cellCount_eq (d : FrameDescriptor) (rawlen : Nat) (header : Bool) :
    cellCount d rawlen header
      = if cellDurations d rawlen header < 0 ∨ cellDurations d rawlen header % 2 ≠ 0 then .error .noMatchLength
        else if (cellDurations d rawlen header / 2).toNat < d.nmin
            ∨ d.nmax < (cellDurations d rawlen header / 2).toNat then .error .noMatchLength
        else .ok (cellDurations d rawlen header / 2).toNat := rfl

theorem cellCount_ok_iff :
    cellCount d rawlen header = .ok n ↔ d.nmin ≤ n ∧ n ≤ d.nmax ∧ cellDurations d rawlen header = 2 * n := by
  rw [cellCount_eq]
  split
  · simp only [reduceCtorEq, false_iff]
    omega
  · split
    · simp only [reduceCtorEq, false_iff]
      omega
    · simp only [Except.ok.injEq]
      omega

theorem cellCount_error {e : Cause} (h : cellCount d rawlen header = .error e) : e = .noMatchLength := by
  rw [cellCount_eq] at h
  split at h
  · cases h; rfl
  · split at h
    · cases h; rfl
    · cases h

theorem cellCount_ok_iff_of_distance (hkind : d.kind = .distance) :
    cellCount d rawlen header = .ok n ↔ d.nmin ≤ n ∧ n ≤ d.nmax
      ∧ rawlen = 1 + pairLen (d.preMark != 0) + pairLen (header && d.hdrMark != 0) + 2 * n + 1 := by
  simp only [cellCount_ok_iff, cellDurations, hkind]
  omega

theorem cellCount_ok_iff_of_width (hkind : d.kind = .width) :
    cellCount d rawlen header = .ok n ↔ d.nmin ≤ n ∧ n ≤ d.nmax
      ∧ rawlen + 1 = 1 + pairLen (header && d.hdrMark != 0) + 2 * n := by
  simp only [cellCount_ok_iff, cellDurations, hkind]
  omega

/-- Settles O34: the length equation of each kind. -/
theorem cellCountSolvesLength : Obligations.CellCountSolvesLength := by
  intro d rawlen header
  refine ⟨fun n => ?_, fun e => cellCount_error⟩
  cases hkind : d.kind with
  | distance => simp [cellCount_ok_iff_of_distance hkind, pairLen]
  | width => simp [cellCount_ok_iff_of_width hkind, pairLen]

/-- A capture of `n` cells holds its pre-roll gap and no more entries than the frame's plan has. -/
theorem cellCount_ok_length (hn : 1 ≤ n) (h : cellCount d rawlen header = .ok n) :
    1 ≤ rawlen ∧ rawlen ≤ planLength d n header + 1 := by
  cases hkind : d.kind with
  | distance =>
    have ⟨_, _, hlength⟩ := (cellCount_ok_iff_of_distance hkind).mp h
    simp only [planLength, hkind]
    omega
  | width =>
    have ⟨_, _, hlength⟩ := (cellCount_ok_iff_of_width hkind).mp h
    simp only [planLength, hkind]
    omega

-- The readers (R333)

/-- The frame reader accepts what all of its readers accept, one after the other. -/
theorem decFrame_ok (h : decFrame c d raw header = .ok (f, n)) :
    cellCount d raw.length header = .ok n
      ∧ ∃ afterPre afterHeader rest,
        readPair c (d.preMark != 0) d.preMark d.preSpace (raw.drop 1) = .ok afterPre
          ∧ readPair c (header && d.hdrMark != 0) d.hdrMark d.hdrSpace afterPre = .ok afterHeader
          ∧ readCells c d n afterHeader = .ok (f, rest) ∧ readStop c d rest = .ok () := by
  simp only [decFrame, bind, Except.bind, pure, Except.pure] at h
  split at h
  · cases h
  next hcount =>
  split at h
  · cases h
  next afterPre hpre =>
  split at h
  · cases h
  next afterHeader hheader =>
  split at h
  · cases h
  next fe hcells =>
  split at h
  · cases h
  next hstop =>
  cases h
  exact ⟨hcount, afterPre, afterHeader, fe.2, hpre, hheader, hcells, hstop⟩

theorem readStop_ok (hkind : d.kind = .distance) (h : readStop c d es = .ok ()) :
    ∃ m rest, es = m :: rest ∧ matchMark c m d.stopMark = true := by
  simp only [readStop, hkind] at h
  split at h
  next m rest =>
    split at h
    next hm => exact ⟨m, rest, rfl, hm⟩
    · cases h
  · cases h

/-- The cells and the stop mark that the readers accept lie in the bands of the frame's body; what comes after is not
looked at. -/
theorem readBody_ok {rest : List Nat} (hcells : readCells c d n es = .ok (f, rest))
    (hstop : readStop c d rest = .ok ()) :
    f < 2 ^ n ∧ ∃ body after, es = body ++ after ∧ Within c .mark (frameBody d f n) body := by
  cases hkind : d.kind with
  | distance =>
    simp only [readCells, hkind] at hcells
    obtain ⟨cells, g, rfl, rfl, hg, hw⟩ := readDistance_ok hcells
    obtain ⟨m, after, rfl, hm⟩ := readStop_ok hkind hstop
    rw [Nat.zero_mul, Nat.zero_add, frameBody_of_distance hkind]
    refine ⟨hg, cells ++ [m], after, by simp, hw.append ?_ ⟨hm, trivial⟩⟩
    simp [distanceCells_length]
  | width =>
    simp only [readCells, hkind] at hcells
    obtain ⟨cells, g, rfl, rfl, hg, hw⟩ := readWidth_ok hcells
    rw [Nat.zero_mul, Nat.zero_add, frameBody_of_width hkind]
    exact ⟨hg, cells, rest, rfl, hw⟩

theorem Within.append_pairOf {present : Bool} {m s : Nat} {pair plan : List Nat}
    (hpair : Within c .mark (pairOf present m s) pair) (h : Within c .mark plan es) :
    Within c .mark (pairOf present m s ++ plan) (pair ++ es) :=
  hpair.append (by rw [pairOf_length]; cases present <;> rfl) h

/-- After its pre-roll gap an accepted capture holds the frame's plan, and perhaps more. -/
theorem decFrame_within (h : decFrame c d raw header = .ok (f, n)) :
    f < 2 ^ n ∧ ∃ es after, raw.drop 1 = es ++ after ∧ Within c .mark (encFrame d f n header) es := by
  obtain ⟨-, afterPre, afterHeader, rest, hreadPre, hreadHeader, hcells, hstop⟩ := decFrame_ok h
  obtain ⟨pre, hraw, hpre⟩ := readPair_ok hreadPre
  obtain ⟨hdr, rfl, hheader⟩ := readPair_ok hreadHeader
  obtain ⟨hf, body, after, rfl, hbody⟩ := readBody_ok hcells hstop
  refine ⟨hf, pre ++ (hdr ++ body), after, by simp [hraw], ?_⟩
  rw [encFrame_eq]
  exact hpre.append_pairOf (hheader.append_pairOf hbody)

/-- Settles O36: the length test leaves no room for entries after the plan. -/
theorem decodedFrameIsWithinTolerance : Obligations.DecodedFrameIsWithinTolerance := by
  intro c d raw header f n hmin h
  obtain ⟨hcount, -⟩ := decFrame_ok h
  obtain ⟨hlow, hhigh, -⟩ := cellCount_ok_iff.mp hcount
  obtain ⟨hsome, hroom⟩ := cellCount_ok_length (hmin.trans hlow) hcount
  obtain ⟨hf, es, after, hraw, hw⟩ := decFrame_within h
  have hplan : es.length = planLength d n header := hw.length.trans (encFrame_length_eq d f n header)
  obtain ⟨g, tail, rfl⟩ := List.exists_cons_of_length_pos hsome
  obtain rfl : tail = es ++ after := hraw
  have hnone : after = [] := by
    rw [List.length_cons, List.length_append] at hroom
    exact List.length_eq_zero_iff.mp (by omega)
  exact ⟨hlow, hhigh, hf, g, es, by rw [hnone, List.append_nil], hw⟩

/-- A DISTANCE frame of a fixed number of cells has one length. -/
theorem decFrame_ok_of_fixed {fn : Nat × Nat} (hkind : d.kind = .distance) (hmin : d.nmin = n) (hmax : d.nmax = n)
    (h : decFrame c d raw header = .ok fn) :
    fn.2 = n ∧ fn.1 < 2 ^ n
      ∧ raw.length = 1 + pairLen (d.preMark != 0) + pairLen (header && d.hdrMark != 0) + 2 * n + 1 := by
  obtain ⟨f, k⟩ := fn
  obtain ⟨hcount, -⟩ := decFrame_ok h
  obtain ⟨hlow, hhigh, hlength⟩ := (cellCount_ok_iff_of_distance hkind).mp hcount
  obtain rfl : k = n := by omega
  exact ⟨rfl, (decFrame_within h).1, hlength⟩

end Sys2Proof.Machine
end

section
/-! PROOFS. The two decoders with a repeat convention (R340, R346): the NEC repeat codeword, and the headerless JVC
frame. -/

namespace Sys2Proof.Machine

variable {c : Config} {raw : List Nat} {tag : Byte} {r : Decoded}

-- NEC (R340)

/-- A capture of four entries is the repeat codeword or nothing. -/
theorem decNec_ok_iff_of_four (h : raw.length = 4) :
    decNec c raw tag = .ok r ↔ necRepeat c c.table.nec raw = true ∧ r = ⟨c.repeatValue.toNat, 0, 0⟩ := by
  rw [decNec, if_pos h]
  split
  next hrepeat => simp [hrepeat, eq_comm]
  next hrepeat => simp [hrepeat]

theorem decNec_of_not_four (h : raw.length ≠ 4) : decNec c raw tag = decValueFrame c c.table.nec raw :=
  if_neg h

theorem necRepeat_iff {d : FrameDescriptor} {g m s e : Nat} :
    necRepeat c d [g, m, s, e] = true ↔
      matchMark c m d.hdrMark = true ∧ matchSpace c s d.rptSpace = true ∧ matchMark c e d.bitMark = true := by
  simp only [necRepeat, Bool.and_eq_true, and_assoc]

/-- Settles O38: a four-entry capture is the codeword or nothing, and a default NEC frame has 68 entries. -/
theorem necRepeatDistinctFromData : Obligations.NecRepeatDistinctFromData := by
  refine ⟨fun c g m s e tag r => ?codeword, fun raw tag r h => ?default⟩
  case codeword => rw [decNec_ok_iff_of_four rfl, necRepeat_iff, and_assoc, and_assoc]
  case default =>
    by_cases hfour : raw.length = 4
    · have ⟨_, hsentinel⟩ := (decNec_ok_iff_of_four hfour).mp h
      exact .inl ⟨hfour, hsentinel⟩
    · rw [decNec_of_not_four hfour] at h
      obtain ⟨fn, hframe, rfl⟩ := map_eq_ok h
      obtain ⟨hbits, hvalue, hlength⟩ := decFrame_ok_of_fixed (n := 32) rfl rfl rfl hframe
      exact .inr ⟨hlength, hbits, rfl, hvalue⟩

-- JVC (R346)

/-- A JVC result is the word of a header frame, or of a headerless one where R346 allows the second attempt. -/
theorem decJvc_ok (h : decJvc c raw tag = .ok r) :
    ∃ header fn, decFrame c c.table.jvc raw header = .ok fn ∧ r = wholeFrame fn
      ∧ (header = false → tag = Protocol.jvc.tag ∧ raw.headD 0 ≤ c.jvcRptWindowTicks) := by
  unfold decJvc at h
  split at h
  next fn hframe =>
    cases h
    exact ⟨true, fn, hframe, rfl, nofun⟩
  · split at h
    next hallowed =>
      split at h
      next fn hframe =>
        cases h
        exact ⟨false, fn, hframe, rfl, fun _ => hallowed⟩
      · cases h
    · cases h

/-- Settles O39: the 16 cells of a default JVC frame give its two lengths. -/
theorem jvcHeaderlessNeedsPriorJvc : Obligations.JvcHeaderlessNeedsPriorJvc := by
  intro raw tag r h
  obtain ⟨header, fn, hframe, rfl, hheaderless⟩ := decJvc_ok h
  obtain ⟨hbits, hvalue, hlength⟩ := decFrame_ok_of_fixed (n := 16) rfl rfl rfl hframe
  refine ⟨hbits, rfl, hvalue, ?_⟩
  cases header with
  | true => exact .inl hlength
  | false => exact .inr ⟨hlength, hheaderless rfl⟩

end Sys2Proof.Machine
end

section
/-! PROOFS. What a decoder gives back of an ideal capture (R406): the pulse decoders and the two biphase decoders under
the default parameters. -/

namespace Sys2Proof.Machine

variable {p : Protocol} {d : FrameDescriptor} {f n : Nat}

/-- The decoders that report the frame word as it is, each with its row of the default table (R342, R348, R350, R354,
R356, R358). -/
def wholeWordDecoders : List (Protocol × FrameDescriptor) :=
  [(.sony, defaultConfig.table.sony), (.samsung, defaultConfig.table.samsung),
   (.whynter, defaultConfig.table.whynter), (.lg, defaultConfig.table.lg),
   (.sanyo, defaultConfig.table.sanyo), (.mitsubishi, defaultConfig.table.mitsubishi)]

theorem runDecoder_of_mem_wholeWordDecoders {x : Protocol × FrameDescriptor} (hx : x ∈ wholeWordDecoders)
    (raw : List Nat) (tag : Byte) :
    runDecoder defaultConfig raw tag x.1 = (decValueFrame defaultConfig x.2 raw).toOption := by
  fin_cases hx <;> rfl

theorem wholeWordDecoders_fit {x : Protocol × FrameDescriptor} (hx : x ∈ wholeWordDecoders) : FrameFits x.2 := by
  fin_cases hx <;> exact defaultTable_fits _ (by simp)

/-- A decoder that reports the frame word gives back the word of a frame laid out by its row. -/
theorem runDecoder_wholeWord (hx : (p, d) ∈ wholeWordDecoders) (hmin : d.nmin ≤ n) (hmax : n ≤ d.nmax)
    (hf : f < 2 ^ n) (q : Rounding) (g : Nat) (tag : Byte) :
    runDecoder defaultConfig (idealCapture q g (encFrame d f n true)) tag p = some ⟨f, 0, n⟩ := by
  rw [runDecoder_of_mem_wholeWordDecoders hx, decValueFrame_idealCapture (wholeWordDecoders_fit hx) hmin hmax hf]
  rfl

/-- Settles O40: NEC, JVC, PANASONIC, AIWA and DENON by the lemmas about their decoders, the others as whole words. -/
theorem pulseRoundTrip : Obligations.PulseRoundTrip := by
  intro q g tag
  refine ⟨fun v hv => ⟨?nec, ?samsung, ?whynter⟩, fun n v hn hn32 hv => ?sony,
    fun v hv => ⟨?jvc, fun htag hg => ?jvcHeaderless⟩, fun v hv => ?lg, fun a v ha hv => ?panasonic,
    fun v hv => ?aiwa, fun a v ha hv => ?denon, fun v hv => ?sanyo, fun v hv => ?mitsubishi⟩
  case nec => exact congrArg Except.toOption (decNec_idealCapture q g tag hv)
  case samsung => exact runDecoder_wholeWord (by simp [wholeWordDecoders]) (by decide) (by decide) hv q g tag
  case whynter => exact runDecoder_wholeWord (by simp [wholeWordDecoders]) (by decide) (by decide) hv q g tag
  case sony => exact runDecoder_wholeWord (by simp [wholeWordDecoders]) hn hn32 hv q g tag
  case jvc => exact congrArg Except.toOption (decJvc_idealCapture q g tag hv)
  case jvcHeaderless =>
    subst htag
    exact congrArg Except.toOption (decJvc_idealCapture_headerless q hg hv)
  case lg => exact runDecoder_wholeWord (by simp [wholeWordDecoders]) (by decide) (by decide) hv q g tag
  case panasonic => exact congrArg Except.toOption (decPanasonic_idealCapture q g tag ha hv)
  case aiwa => exact congrArg Except.toOption (decAiwa_idealCapture q g tag hv)
  case denon => exact congrArg Except.toOption (decDenon_idealCapture q g tag ha hv)
  case sanyo => exact runDecoder_wholeWord (by simp [wholeWordDecoders]) (by decide) (by decide) hv q g tag
  case mitsubishi => exact runDecoder_wholeWord (by simp [wholeWordDecoders]) (by decide) (by decide) hv q g tag

/-- Settles O41: RC5 is the first decoder DISPATCH tries. -/
theorem rc5RoundTrip : Obligations.Rc5RoundTrip := fun q g _ _ tag hn hn32 hv =>
  ⟨decRc5_idealCapture q g tag hn hn32 hv, dispatch_rc5 q g tag hn hn32 hv⟩

/-- Settles O42: DISPATCH tries only RC5 before RC6, and RC5 refuses the header mark. -/
theorem rc6RoundTrip : Obligations.Rc6RoundTrip := fun q g _ _ tag hn hn32 hv =>
  ⟨decRc6_idealCapture q g tag hn hn32 hv, dispatch_rc6 q g tag hn hn32 hv⟩

end Sys2Proof.Machine
end

section
/-! PROOFS. The plan of a pulse frame written out from the most significant bit on (R404). -/

namespace Sys2Proof.Machine

theorem pairOf_eq_ite {present : Bool} {P : Prop} [Decidable P] (h : present = true ↔ P) (m s : Nat) :
    pairOf present m s = if P then [m, s] else [] := by
  simp only [pairOf, h]

theorem pairLen_eq_ite {present : Bool} {P : Prop} [Decidable P] (h : present = true ↔ P) :
    pairLen present = if P then 2 else 0 := by
  simp only [pairLen, h]

theorem prePresent_iff (d : FrameDescriptor) : (d.preMark != 0) = true ↔ d.preMark ≠ 0 := by simp

theorem headerPresent_iff (d : FrameDescriptor) (header : Bool) :
    (header && d.hdrMark != 0) = true ↔ header = true ∧ d.hdrMark ≠ 0 := by simp

theorem range_succ_reverse (n : Nat) : (List.range (n + 1)).reverse = n :: (List.range n).reverse := by
  simp [List.range_succ]

theorem distanceCells_eq_flatMap (d : FrameDescriptor) (f n : Nat) :
    distanceCells d f n
      = (List.range n).reverse.flatMap fun i => [d.bitMark, if f.testBit i then d.oneSpace else d.zeroSpace] := by
  induction n with
  | zero => rfl
  | succ n ih => rw [range_succ_reverse, List.flatMap_cons, distanceCells, ih]; rfl

/-- The marks of a WIDTH frame word, most significant first; its cells have a space between two of them. -/
theorem widthCells_eq_intersperse (d : FrameDescriptor) (f n : Nat) :
    widthCells d f n
      = ((List.range n).reverse.map fun i => if f.testBit i then d.oneMark else d.zeroMark).intersperse d.bitSpace := by
  induction n with
  | zero => rfl
  | succ n ih =>
    rw [range_succ_reverse, List.map_cons, widthCells, ih]
    cases n with
    | zero => rfl
    | succ n => rw [range_succ_reverse, List.map_cons, List.intersperse_cons_cons, if_neg n.succ_ne_zero]

/-- Settles O51: the pairs, then the cells of the descriptor's kind; the lengths add up. -/
theorem framePlanLayout : Obligations.FramePlanLayout := by
  intro d f n header hn
  have hpre := prePresent_iff d
  have hhdr := headerPresent_iff d header
  rw [encFrame_length_eq, planLength, pairLen_eq_ite hpre, pairLen_eq_ite hhdr, encFrame_eq, pairOf_eq_ite hpre,
    pairOf_eq_ite hhdr, ← List.append_assoc]
  cases hkind : d.kind with
  | distance =>
    rw [frameBody_of_distance hkind, distanceCells_eq_flatMap]
    exact ⟨rfl, fun _ => (Nat.add_assoc ..).symm, nofun⟩
  | width =>
    rw [frameBody_of_width hkind, widthCells_eq_intersperse]
    refine ⟨rfl, nofun, fun _ hnone => ?_⟩
    rw [if_neg (not_not.mpr hnone), Nat.zero_add]
    exact (Nat.add_sub_assoc (by omega) _).symm

end Sys2Proof.Machine
end

section
/-! PROOFS. The sends of a pulse frame (R402, R403, R407 to R417): each is the skeleton they share, with its descriptor
and its frame word. -/

namespace Sys2Proof.Machine

/-- The SENDs of the low `nbits` bits: each with its protocol, its row of the table, and whether it sends the header. -/
def valueSends (s : State) : List (Instr × Protocol × FrameDescriptor × Bool) :=
  [(.sendNec, .nec, s.cfg.table.nec, true), (.sendSony, .sony, s.cfg.table.sony, true),
   (.sendJvc, .jvc, s.cfg.table.jvc, !s.repeatFlag), (.sendSamsung, .samsung, s.cfg.table.samsung, true),
   (.sendWhynter, .whynter, s.cfg.table.whynter, true), (.sendLg, .lg, s.cfg.table.lg, true),
   (.sendDish, .dish, s.cfg.table.dish, true)]

theorem exec_of_mem_valueSends {s : State} {i : Instr} {p : Protocol} {d : FrameDescriptor} {header : Bool}
    (hx : (i, p, d, header) ∈ valueSends s) : exec i s = .next (s.sendFrame p d header) := by
  simp only [valueSends, List.mem_cons, List.not_mem_nil, or_false, Prod.mk.injEq] at hx
  rcases hx with h | h | h | h | h | h | h
  all_goals
    obtain ⟨rfl, rfl, rfl, rfl⟩ := h
    rfl

/-- Settles O53: a legal bit count and an enabled encoder pass the checks of the skeleton. -/
theorem sendPlaysValueFrame : Obligations.SendPlaysValueFrame := by
  rintro s ⟨i, p, d, header⟩ hx henabled hmin hmax
  rw [exec_of_mem_valueSends hx, State.sendFrame, State.send_of_legal henabled hmin hmax]
  rfl

/-- The SENDs of a fixed width: each with its protocol, its row of the table, its frame word and its cell count. -/
def fixedSends (s : State) : List (Instr × Protocol × FrameDescriptor × Nat × Nat) :=
  [(.sendPanasonic, .panasonic, s.cfg.table.panasonic, s.addrField 16 * 2 ^ 32 + s.valueField 32, 48),
   (.sendAiwa, .aiwa, s.cfg.table.aiwa, aiwaWord s.cfg (s.valueField 15), 42),
   (.sendDenon, .denon, s.cfg.table.denon, s.addrField 4 * 2 ^ 10 + s.valueField 10, 14),
   (.sendSharp, .sharp, s.cfg.table.sharp, sharpWord (s.addrField 5) (s.valueField 8), 15)]

theorem exec_of_mem_fixedSends {s : State} {i : Instr} {p : Protocol} {d : FrameDescriptor} {f n : Nat}
    (hx : (i, p, d, f, n) ∈ fixedSends s) : exec i s = .next (s.send p true (encFrame d f n true) d.khz) := by
  simp only [fixedSends, List.mem_cons, List.not_mem_nil, or_false, Prod.mk.injEq] at hx
  rcases hx with h | h | h | h
  all_goals
    obtain ⟨rfl, rfl, rfl, rfl, rfl⟩ := h
    rfl

/-- The whole address register. -/
theorem State.addrField_width (s : State) : s.addrField 16 = s.argAddr.toNat := Nat.mod_eq_of_lt s.argAddr.isLt

/-- The whole value register. -/
theorem State.valueField_width (s : State) : s.valueField 32 = s.argValue.toNat := Nat.mod_eq_of_lt s.argValue.isLt

theorem State.send_of_enabled {s : State} {p : Protocol} (h : s.cfg.encEnabled p = true) (plan : List Nat) (khz : Nat) :
    s.send p true plan khz = (s.sendRaw plan khz).answer true := by
  simp [State.send, h]

/-- Settles O54: no bit count is checked, and PANASONIC sends both registers whole. -/
theorem sendPlaysFixedFrame : Obligations.SendPlaysFixedFrame := by
  refine ⟨testBit_revBits, ?_⟩
  rintro s ⟨i, p, d, f, n⟩ hx henabled
  have hfixed : (i, p, d, f, n) ∈ fixedSends s := by
    rw [fixedSends, s.addrField_width, s.valueField_width]
    exact hx
  rw [exec_of_mem_fixedSends hfixed, State.send_of_enabled henabled]
  rfl

end Sys2Proof.Machine
end

section
/-! PROOFS. The carrier stage (R440 to R442): SENDRAW turns a plan into segments whose kind is the parity of the place,
and SEND.RAW hands it the cells of TXBUF. -/

namespace Sys2Proof.Machine

/-- The segment that element `i` of a plan gives when the plan begins with a mark (R442). -/
def segmentAt (khz i us : Nat) : Segment := if i % 2 = 0 then .mark us khz else .space us

theorem segmentAt_add_two (khz i : Nat) : segmentAt khz (i + 1 + 1) = segmentAt khz i := by
  funext us
  simp [segmentAt, Nat.add_assoc]

/-- A mark and the space after it bring the plan back to a mark, two places on. -/
theorem segmentsFrom_mark_eq_mapIdx (khz : Nat) : ∀ plan, segmentsFrom khz .mark plan = plan.mapIdx (segmentAt khz)
  | [] => rfl
  | [_] => rfl
  | us :: us' :: plan => by
    simp only [segmentsFrom, segmentsFrom_mark_eq_mapIdx khz plan, List.mapIdx_cons, segmentAt_add_two]
    rfl

/-- Settles O52: the segments are the elements, each mapped with its place. -/
theorem planElementsBecomeSegments : Obligations.PlanElementsBecomeSegments := by
  intro khz plan
  rw [segmentsFrom_mark_eq_mapIdx]
  refine ⟨List.length_mapIdx, fun i us hi => ?_⟩
  rw [List.getElem?_mapIdx, hi]
  rfl

theorem segmentsFrom_txPlan (s : State) (khz : Nat) :
    segmentsFrom khz .mark s.txPlan
      = (List.range s.argLen.toNat).map fun i => segmentAt khz i (s.txCell i).toNat := by
  rw [segmentsFrom_mark_eq_mapIdx]
  apply List.ext_getElem <;> simp [State.txPlan]

theorem State.rawSendLegal_iff (s : State) :
    s.rawSendLegal = true ↔ s.argLen.toNat ≤ s.cfg.txCapacity ∧ s.argKhz ≠ 0 := by
  simp [State.rawSendLegal]

theorem exec_sendRaw_of_legal {s : State} (h : s.rawSendLegal = true) :
    exec .sendRaw s = .next ((s.sendRaw s.txPlan s.argKhz.toNat).answer true) := by
  simp [exec, execSendRaw, h]

theorem exec_sendRaw_of_not_legal {s : State} (h : ¬ s.rawSendLegal = true) :
    exec .sendRaw s = .next s.illegal := by
  simp [exec, execSendRaw, h]

/-- Settles O56: the legality check decides between playing TXBUF and the illegal command. -/
theorem sendRawPlaysTxbuf : Obligations.SendRawPlaysTxbuf := by
  refine ⟨rfl, fun s => ⟨fun hlen hkhz => ?_, fun hbad => ?_⟩⟩
  · rw [exec_sendRaw_of_legal (s.rawSendLegal_iff.mpr ⟨hlen, hkhz⟩), State.sendRaw, segmentsFrom_txPlan]
    rfl
  · have hillegal : ¬ s.rawSendLegal = true := fun hlegal => by
      obtain ⟨hlen, hkhz⟩ := s.rawSendLegal_iff.mp hlegal
      exact hbad.elim (Nat.not_lt.mpr hlen) hkhz
    exact exec_sendRaw_of_not_legal hillegal

end Sys2Proof.Machine
end

section
/-! PROOFS. SEND.PRONTO (R460 to R470): the digits and fields of a text, the words that they spell, which texts parse
and to what plan, and with that what the command does. -/

namespace Sys2Proof.Machine

-- SELECT (R464)

/-- The sub-sequence that SELECT settles on, empty where there is none (R464). -/
def prontoPick (once rpt : List Nat) (isRepeat fallback : Bool) : List Nat :=
  let want := if isRepeat then rpt else once
  let other := if isRepeat then once else rpt
  if want = [] ∧ fallback = true then other else want

/-- SELECT fails exactly where it settles on an empty sub-sequence. -/
theorem prontoSelect_eq_ite (once rpt : List Nat) (isRepeat fallback : Bool) :
    prontoSelect once rpt isRepeat fallback
      = if prontoPick once rpt isRepeat fallback = [] then .error .unsupportedRequest
        else .ok (prontoPick once rpt isRepeat fallback) := by
  unfold prontoSelect prontoPick
  by_cases hwant : (if isRepeat then rpt else once) = []
  · cases fallback
    · simp [hwant]
    · by_cases hother : (if isRepeat then once else rpt) = [] <;> simp [hwant, hother]
  · simp [hwant]

theorem prontoSelect_eq_ok_iff {once rpt seq : List Nat} {isRepeat fallback : Bool} :
    prontoSelect once rpt isRepeat fallback = .ok seq
      ↔ seq ≠ [] ∧ seq = prontoPick once rpt isRepeat fallback := by
  rw [prontoSelect_eq_ite]
  split
  case isTrue hnone => simp [hnone]
  case isFalse hsome =>
    rw [Except.ok.injEq, eq_comm]
    exact ⟨fun h => ⟨h ▸ hsome, h⟩, And.right⟩

/-- Settles O58: each clause fixes the request, the fallback, or which sub-sequence is empty. -/
theorem prontoSelection : Obligations.ProntoSelection := by
  intro once rpt
  refine ⟨fun honce fb => ?_, fun hrpt fb => ?_, fun hrpt => ?_, fun honce => ?_, rfl, rfl, fun r fb => ?_⟩
  · exact prontoSelect_eq_ok_iff.mpr ⟨honce, by simp [prontoPick, honce]⟩
  · exact prontoSelect_eq_ok_iff.mpr ⟨hrpt, by simp [prontoPick, hrpt]⟩
  · exact prontoSelect_eq_ok_iff.mpr ⟨hrpt, rfl⟩
  · exact prontoSelect_eq_ok_iff.mpr ⟨honce, rfl⟩
  · rw [prontoSelect_eq_ite, if_pos (by simp [prontoPick])]

-- Digits and fields (R463)

/-- The character codes of a digit, by the three ranges of R463. -/
theorem mem_digitChars_iff {ch : Byte} {n : Nat} (hn : n < 16) :
    ch ∈ digitChars n
      ↔ n < 10 ∧ ch.toNat = 0x30 + n
        ∨ 10 ≤ n ∧ (ch.toNat = 0x41 + (n - 10) ∨ ch.toNat = 0x61 + (n - 10)) := by
  by_cases hdec : n < 10
  · simp only [digitChars, if_pos hdec, List.mem_singleton, ← BitVec.toNat_inj, BitVec.toNat_ofNat]
    omega
  · simp only [digitChars, if_neg hdec, List.mem_cons, List.not_mem_nil, or_false, ← BitVec.toNat_inj,
      BitVec.toNat_ofNat]
    omega

/-- The digits are the characters that `hexDigit` reads, each with its value. -/
theorem hexDigit_eq_some_iff {ch : Byte} {n : Nat} : hexDigit ch = some n ↔ n < 16 ∧ ch ∈ digitChars n := by
  rw [and_congr_right mem_digitChars_iff]
  simp only [hexDigit]
  split_ifs with hdec hupper hlower
  · rw [Option.some.injEq]; omega
  · rw [Option.some.injEq]; omega
  · rw [Option.some.injEq]; omega
  · exact iff_of_false id (by omega)

theorem fieldWord_eq_some_iff {f : List Byte} {w : Nat} : fieldWord f = some w ↔ SpellsField f w := by
  constructor
  · intro h
    unfold fieldWord at h
    split at h
    case h_1 ca cb cc cd =>
      split at h
      case h_1 a b c d ha hb hc hd =>
        obtain ⟨ha, hca⟩ := hexDigit_eq_some_iff.mp ha
        obtain ⟨hb, hcb⟩ := hexDigit_eq_some_iff.mp hb
        obtain ⟨hc, hcc⟩ := hexDigit_eq_some_iff.mp hc
        obtain ⟨hd, hcd⟩ := hexDigit_eq_some_iff.mp hd
        exact ⟨a, b, c, d, ha, hb, hc, hd, (Option.some.inj h).symm, ca, hca, cb, hcb, cc, hcc, cd, hcd, rfl⟩
      case h_2 => cases h
    case h_2 => cases h
  · rintro ⟨a, b, c, d, ha, hb, hc, hd, rfl, ca, hca, cb, hcb, cc, hcc, cd, hcd, rfl⟩
    simp only [fieldWord, hexDigit_eq_some_iff.mpr ⟨ha, hca⟩, hexDigit_eq_some_iff.mpr ⟨hb, hcb⟩,
      hexDigit_eq_some_iff.mpr ⟨hc, hcc⟩, hexDigit_eq_some_iff.mpr ⟨hd, hcd⟩]

theorem prontoSpace_not_mem_digitChars {n : Nat} (hn : n < 16) : prontoSpace ∉ digitChars n := fun h =>
  nomatch (hexDigit_eq_some_iff.mpr ⟨hn, h⟩ : hexDigit prontoSpace = some n)

/-- No digit is a space, so a field that spells a word is one run of its text. -/
theorem SpellsField.run {f : List Byte} {w : Nat} (h : SpellsField f w) : f ≠ [] ∧ prontoSpace ∉ f := by
  obtain ⟨a, b, c, d, ha, hb, hc, hd, -, ca, hca, cb, hcb, cc, hcc, cd, hcd, rfl⟩ := h
  refine ⟨List.cons_ne_nil _ _, fun hmem => ?_⟩
  simp only [List.mem_cons, List.not_mem_nil, or_false] at hmem
  rcases hmem with rfl | rfl | rfl | rfl
  · exact prontoSpace_not_mem_digitChars ha hca
  · exact prontoSpace_not_mem_digitChars hb hcb
  · exact prontoSpace_not_mem_digitChars hc hcc
  · exact prontoSpace_not_mem_digitChars hd hcd

-- The fields of a text

/-- A space ends a field, whatever stands before it: the fields of what follows are read afresh. -/
theorem fieldsFrom_append_space (text rest cur : List Byte) :
    fieldsFrom (text ++ prontoSpace :: rest) cur = fieldsFrom text cur ++ fieldsFrom rest [] := by
  induction text generalizing cur with
  | nil => cases cur <;> rfl
  | cons ch text ih =>
    rw [List.cons_append, fieldsFrom, fieldsFrom]
    split
    · rw [ih]
      cases cur <;> rfl
    · exact ih _

theorem fieldsFrom_of_no_space {f : List Byte} (h : prontoSpace ∉ f) (cur : List Byte) :
    fieldsFrom f cur = closeField (cur ++ f) [] := by
  induction f generalizing cur with
  | nil => rw [List.append_nil, fieldsFrom]
  | cons ch f ih =>
    obtain ⟨hch, hf⟩ := not_or.mp (mt List.mem_cons.mpr h)
    rw [fieldsFrom, if_neg (Ne.symm hch), ih hf, List.append_assoc, List.singleton_append]

theorem fieldsFrom_run {f : List Byte} (hne : f ≠ []) (h : prontoSpace ∉ f) : fieldsFrom f [] = [f] := by
  rw [fieldsFrom_of_no_space h, List.nil_append]
  cases f with
  | nil => exact absurd rfl hne
  | cons ch f => rfl

theorem fieldsFrom_leading_spaces (k : Nat) (text : List Byte) :
    fieldsFrom (List.replicate k prontoSpace ++ text) [] = fieldsFrom text [] := by
  induction k with
  | zero => rfl
  | succ k ih => exact ih

/-- A maximal run of cells other than a space is found by `fieldsFrom`. -/
theorem FieldOf.mem_fieldsFrom {f text : List Byte} (h : FieldOf f text) : f ∈ fieldsFrom text [] := by
  obtain ⟨hne, hspace, before, after, rfl, hbefore, hafter⟩ := h
  have hrun : f ∈ fieldsFrom (f ++ after) [] := by
    cases after with
    | nil => rw [List.append_nil, fieldsFrom_run hne hspace]; exact List.mem_singleton_self f
    | cons ch after =>
      obtain rfl : ch = prontoSpace := hafter ch rfl
      rw [fieldsFrom_append_space, fieldsFrom_run hne hspace]
      exact List.mem_append_left _ (List.mem_singleton_self f)
  cases before using List.reverseRecOn with
  | nil => exact hrun
  | append_singleton before ch =>
    obtain rfl : ch = prontoSpace := hbefore ch (by simp)
    rw [List.append_assoc, List.singleton_append, fieldsFrom_append_space]
    exact List.mem_append_right _ hrun

-- The words of a text

/-- The words of a text, if its fields are all words (R463). -/
def prontoWords (text : List Byte) : Option (List Nat) := fieldWords (fieldsFrom text [])

theorem fieldWords_cons {f : List Byte} {w : Nat} (h : SpellsField f w) (fs : List (List Byte)) :
    fieldWords (f :: fs) = (fieldWords fs).map (w :: ·) := by
  rw [fieldWords, fieldWord_eq_some_iff.mpr h]
  cases fieldWords fs <;> rfl

theorem fieldWords_eq_none_of_mem {f : List Byte} (hf : ¬ ∃ w, SpellsField f w) {fs : List (List Byte)}
    (hmem : f ∈ fs) : fieldWords fs = none := by
  induction fs with
  | nil => cases hmem
  | cons g fs ih =>
    cases hg : fieldWord g with
    | none => simp only [fieldWords, hg]
    | some w =>
      have hspells := fieldWord_eq_some_iff.mp hg
      rcases List.mem_cons.mp hmem with rfl | hmem
      · exact absurd ⟨w, hspells⟩ hf
      · rw [fieldWords_cons hspells, ih hmem, Option.map_none]

theorem prontoWords_eq_none_of_fieldOf {f text : List Byte} (hf : FieldOf f text) (h : ¬ ∃ w, SpellsField f w) :
    prontoWords text = none :=
  fieldWords_eq_none_of_mem h hf.mem_fieldsFrom

/-- However a text spells a list of words, these words are read (R463). -/
theorem SpellsWords.prontoWords_eq {text : List Byte} {ws : List Nat} (h : SpellsWords text ws) :
    prontoWords text = some ws := by
  induction h with
  | spaces k => rw [prontoWords, ← List.append_nil (List.replicate ..), fieldsFrom_leading_spaces]; rfl
  | last k hf =>
    obtain ⟨hne, hspace⟩ := hf.run
    rw [prontoWords, fieldsFrom_leading_spaces, fieldsFrom_run hne hspace, fieldWords_cons hf]
    rfl
  | field k hf _ ih =>
    obtain ⟨hne, hspace⟩ := hf.run
    rw [prontoWords, fieldsFrom_leading_spaces, fieldsFrom_append_space, fieldsFrom_run hne hspace,
      List.singleton_append, fieldWords_cons hf]
    exact congrArg _ ih

-- The parse

/-- The layout of R461, and a frequency code that gives a carrier (R467). -/
def ProntoLayout (c : Config) (marker n once rpt : Nat) (body : List Nat) : Prop :=
  marker = 0 ∧ n ≠ 0 ∧ body.length = 2 * (once + rpt) ∧ prontoKhz c n ≠ 0

/-- What parses: words in the layout of R461, with a sub-sequence to play that TX_CAPACITY admits. -/
theorem prontoParse_eq_ok_iff {c : Config} {text : List Byte} {isRepeat fallback : Bool} {pk : List Nat × Nat} :
    prontoParse c text isRepeat fallback = .ok pk
      ↔ ∃ marker n once rpt body,
        prontoWords text = some (marker :: n :: once :: rpt :: body) ∧ ProntoLayout c marker n once rpt body
          ∧ ∃ seq, prontoSelect (body.take (2 * once)) (body.drop (2 * once)) isRepeat fallback = .ok seq
            ∧ seq.length ≤ c.txCapacity ∧ pk = (seq.map (prontoUs c n), prontoKhz c n) := by
  constructor
  · intro h
    unfold prontoParse at h
    split at h
    case h_1 marker n once rpt body hwords =>
      split at h
      case isTrue => cases h
      case isFalse hlayout =>
        split at h
        case h_1 => cases h
        case h_2 seq hseq =>
          split at h
          case isTrue => cases h
          case isFalse hlen =>
            have hlayout : ProntoLayout c marker n once rpt body := by simpa [ProntoLayout] using hlayout
            exact ⟨marker, n, once, rpt, body, hwords, hlayout, seq, hseq, Nat.le_of_not_lt hlen,
              (Except.ok.inj h).symm⟩
    case h_2 => cases h
  · rintro ⟨marker, n, once, rpt, body, hwords, hlayout, seq, hseq, hlen, rfl⟩
    obtain ⟨hmarker, hn, hbody, hkhz⟩ := hlayout
    rw [prontoWords] at hwords
    simp [prontoParse, hwords, hmarker, hn, hbody, hkhz, hseq, Nat.not_lt.mpr hlen]

/-- Where the words are known, the parse fails only by their layout, by an empty choice of SELECT, or by its length. -/
theorem prontoParse_eq_ok_iff_of_words {c : Config} {text : List Byte} {isRepeat fallback : Bool}
    {pk : List Nat × Nat} {marker n once rpt : Nat} {body : List Nat}
    (hwords : prontoWords text = some (marker :: n :: once :: rpt :: body)) :
    prontoParse c text isRepeat fallback = .ok pk
      ↔ ProntoLayout c marker n once rpt body
        ∧ ∃ seq, seq ≠ [] ∧ seq = prontoPick (body.take (2 * once)) (body.drop (2 * once)) isRepeat fallback
          ∧ seq.length ≤ c.txCapacity ∧ pk = (seq.map (prontoUs c n), prontoKhz c n) := by
  simp only [prontoParse_eq_ok_iff, prontoSelect_eq_ok_iff, hwords, Option.some.injEq, List.cons.injEq, and_assoc]
  constructor
  · rintro ⟨_, _, _, _, _, rfl, rfl, rfl, rfl, rfl, h⟩
    exact h
  · intro h
    exact ⟨marker, n, once, rpt, body, rfl, rfl, rfl, rfl, rfl, h⟩

-- The command (R470)

theorem State.prontoLegal_iff (s : State) : s.prontoLegal = true ↔ s.argLen.toNat ≤ s.cfg.ptxtCapacity := by
  simp [State.prontoLegal]

/-- The parse of PTXT that SEND.PRONTO plays from. -/
def State.prontoPlan (s : State) : Except Cause (List Nat × Nat) :=
  prontoParse s.cfg s.pronText s.repeatFlag s.fallbackFlag

theorem exec_sendPronto_of_ok {s : State} {plan : List Nat} {khz : Nat}
    (hlen : s.argLen.toNat ≤ s.cfg.ptxtCapacity) (h : s.prontoPlan = .ok (plan, khz)) :
    exec .sendPronto s = .next ((s.sendRaw plan khz).answer true) := by
  rw [State.prontoPlan] at h
  simp [exec, execSendPronto, s.prontoLegal_iff.mpr hlen, h]

theorem exec_sendPronto_of_not_ok {s : State} (hlen : s.argLen.toNat ≤ s.cfg.ptxtCapacity)
    (h : ∀ pk, s.prontoPlan ≠ .ok pk) : exec .sendPronto s = .next (s.answer false) := by
  cases hparse : s.prontoPlan with
  | ok pk => exact absurd hparse (h pk)
  | error e =>
    rw [State.prontoPlan] at hparse
    simp [exec, execSendPronto, s.prontoLegal_iff.mpr hlen, hparse]

/-- Settles O59: however they are spelled the words are read, and SELECT's choice among them is played unless it is
empty or too long. -/
theorem prontoTextPlaysItsWords : Obligations.ProntoTextPlaysItsWords := by
  intro s n once rpt body hlen hspells hn hbody khz onceSeq rptSeq want other seq hkhz
  have hlayout : ProntoLayout s.cfg 0 n once rpt body := ⟨rfl, hn, hbody, hkhz⟩
  have hparse := fun pk => prontoParse_eq_ok_iff_of_words (c := s.cfg) (isRepeat := s.repeatFlag)
    (fallback := s.fallbackFlag) (pk := pk) hspells.prontoWords_eq
  have hpick : seq = prontoPick onceSeq rptSeq s.repeatFlag s.fallbackFlag := rfl
  refine ⟨fun hne hcap => ?_, fun hnone => ?_⟩
  · exact exec_sendPronto_of_ok hlen ((hparse _).mpr ⟨hlayout, seq, hne, hpick, hcap, rfl⟩)
  · refine exec_sendPronto_of_not_ok hlen fun pk hpk => ?_
    obtain ⟨-, _, hne, rfl, hcap, -⟩ := (hparse pk).mp hpk
    exact hnone.elim hne (Nat.not_lt.mpr hcap)

/-- A SEND.PRONTO that does not answer OK has not played: playing is the one effect beside an answer, and it answers
OK (R470). -/
theorem exec_sendPronto_frame_of_not_ok {s t : State} (h : exec .sendPronto s = .next t) (hok : t.statusOk = false) :
    t = { s with statusOk := false, statusCmderr := t.statusCmderr } := by
  obtain ⟨u, hu, heffect⟩ := exec_effect .sendPronto s
  obtain rfl : u = t := Host.Outcome.next.inj (hu.symm.trans h)
  cases heffect with
  | answer ok err => cases hok; rfl
  | play => cases hok

/-- Settles O60: a text that parses has its words in the layout of R461, and a command that answers no has not
played. -/
theorem prontoFailsClosed : Obligations.ProntoFailsClosed := by
  refine ⟨fun s hlen hbad => exec_sendPronto_of_not_ok hlen fun pk hpk => ?_,
    fun s t => exec_sendPronto_frame_of_not_ok⟩
  obtain ⟨marker, n, once, rpt, body, hwords, ⟨hmarker, hn, hbody, hkhz⟩, -⟩ := prontoParse_eq_ok_iff.mp hpk
  rcases hbad with ⟨f, hf, hnone⟩ | ⟨ws, hws, hshort⟩ | ⟨_, _, _, _, _, hws, hbad⟩
  · cases hwords.symm.trans (prontoWords_eq_none_of_fieldOf hf hnone)
  · cases hwords.symm.trans hws.prontoWords_eq
    simp only [List.length_cons] at hshort
    omega
  · cases hwords.symm.trans hws.prontoWords_eq
    rcases hbad with h | h | h | ⟨-, h⟩
    · exact h hmarker
    · exact hn h
    · exact h hbody
    · exact hkhz h

end Sys2Proof.Machine
end

section
/-! PROOFS. The HashDecoder's signature (R481 to R483): COMPARE under a common factor, and the signature as a fold over
the comparison codes, each step of which can be undone where the multiplier has an inverse modulo 2^32. -/

namespace Sys2Proof.Machine

variable {c : Config}

-- A common factor

/-- COMPARE sees the ratio of two entries alone (R481). -/
theorem hashCompare_mul {k : Nat} (hk : 0 < k) (old new : Nat) :
    hashCompare c (k * old) (k * new) = hashCompare c old new := by
  simp only [hashCompare, Nat.mul_assoc, Nat.mul_lt_mul_left hk]

theorem hashFrom_map_mul {k : Nat} (hk : 0 < k) (old : Nat) (es : List Nat) (h : Word) :
    hashFrom c (k * old) (es.map (k * ·)) h = hashFrom c old es h := by
  induction es generalizing old h with
  | nil => rfl
  | cons new es ih => simp only [List.map_cons, hashFrom, hashCompare_mul hk, ih]

/-- Settles O50: entry 0 is dropped, and every COMPARE after it is that of the entries without the factor. -/
theorem hashIgnoresScaleAndPreroll : Obligations.HashIgnoresScaleAndPreroll := by
  intro c g g' k es hk
  cases es with
  | nil => rfl
  | cons e es => exact hashFrom_map_mul hk e es c.hashBasis

-- The signature as a fold over the codes

theorem hashFrom_eq_foldl (old : Nat) (es : List Nat) (h : Word) :
    hashFrom c old es h = (List.zipWith (hashCompare c) (old :: es) es).foldl (hashStep c) h := by
  induction es generalizing old h with
  | nil => rfl
  | cons new es ih => exact ih new _

theorem hashCapture_eq_foldl (c : Config) (raw : List Nat) :
    hashCapture c raw = (hashCodes c raw).foldl (hashStep c) c.hashBasis := by
  match raw with
  | [] | [_] => rfl
  | _ :: e :: es => exact hashFrom_eq_foldl e es c.hashBasis

-- A fold step can be undone

theorem hashStep_code_inj {h x y : Word} : hashStep c h x = hashStep c h y ↔ x = y := BitVec.xor_right_inj _

/-- Equal codes folded into different states leave them different. -/
theorem hashStep_injective {inv : Word} (hinv : c.hashPrime * inv = 1) (code : Word) :
    Function.Injective (hashStep c · code) := fun h h' heq =>
  calc h = h * c.hashPrime * inv := by rw [BitVec.mul_assoc, hinv]; exact (BitVec.mul_one h).symm
    _ = h' * c.hashPrime * inv := by rw [(BitVec.xor_left_inj code).mp heq]
    _ = h' := by rw [BitVec.mul_assoc, hinv]; exact BitVec.mul_one h'

theorem foldl_hashStep_injective {inv : Word} (hinv : c.hashPrime * inv = 1) (codes : List Word) :
    Function.Injective (codes.foldl (hashStep c)) := by
  induction codes with
  | nil => exact fun _ _ heq => heq
  | cons code codes ih => exact ih.comp (hashStep_injective hinv code)

/-- The inverse of the default multiplier 16777619 modulo 2^32. -/
theorem defaultConfig_hashPrime_mul_inv : defaultConfig.hashPrime * 899433627 = 1 := by decide

/-- Settles O49: the folds agree up to the differing codes, part there, and no later step brings them together. -/
theorem hashTellsOneCodeApart : Obligations.HashTellsOneCodeApart := by
  intro raw raw' before after x y hcodes hcodes' hne heq
  simp only [hashCapture_eq_foldl, hcodes, hcodes', List.foldl_append, List.foldl_cons] at heq
  have hpart := foldl_hashStep_injective defaultConfig_hashPrime_mul_inv after heq
  exact hne (hashStep_code_inj.mp hpart)

end Sys2Proof.Machine
end

section
/-! PROOFS. No exception (R500, R571, R74) and reset (R550, R552): the parameters along a run of any length, and the
state that `rst` leaves. -/

namespace Sys2Proof.Machine

variable {s t : State}

-- The parameters

theorem applyInput_cfg (s : State) (e : Input) : (applyInput s e).cfg = s.cfg := by
  cases e with
  | tick level =>
    obtain ⟨_, _, _, _, _, _, heq⟩ := tick_effect level s
    rw [applyInput, heq]
  | regWrite n v =>
    obtain ⟨_, _, _, _, _, _, heq⟩ := s.regStore_effect n v
    rw [applyInput, heq]
  | regRead n =>
    obtain ⟨_, _, heq⟩ := s.deliver_effect (s.regValue n)
    rw [applyInput, heq]
  | memWrite sp i v =>
    obtain heq | ⟨-, -, heq⟩ | ⟨-, -, heq⟩ := s.cellStore_effect sp i v <;> rw [applyInput, heq]
  | memRead sp i =>
    obtain ⟨_, _, heq⟩ := s.deliver_effect (s.cellValue sp i)
    rw [applyInput, heq]
  | rst => exact s.afterRst_cfg

theorem State.Stepped.cfg_eq (h : s.Stepped t) : t.cfg = s.cfg := by
  cases h with
  | wait _ => rfl
  | event e rest _ _ => exact applyInput_cfg (s.popped rest) e
  | command v rest _ i _ _ _ eff =>
    obtain ⟨hcfg, -⟩ := eff.sameInputs
    exact hcfg
  | illegal v rest _ e _ => rfl

/-- Settles O5, by induction on the number of steps: every step answers a next state with the same parameters. -/
theorem runNeverStops : Obligations.RunNeverStops := by
  intro k
  induction k with
  | zero => exact fun s => ⟨s, rfl, rfl⟩
  | succ k ih =>
    intro s
    obtain ⟨u, hstep, hstepped⟩ := step_cases s
    obtain ⟨t, hrun, hcfg⟩ := ih u
    exact ⟨t, (run_step hstep).trans hrun, hcfg.trans hstepped.cfg_eq⟩

-- Reset

/-- Settles O31: `rst` is no command, and as an event it keeps the parameters and the model's own fields alone. -/
theorem rstRestoresResetState : Obligations.RstRestoresResetState := fun s rest hin => step_event s .rst rest hin rfl

end Sys2Proof.Machine
end
